-- ==== Sys2Proof/Word.lean ====
section
/-! DEFINITION. The word types of the machine (spec/00_scope.md R7). -/

namespace Sys2Proof

/-- One byte: a memory byte, a general register, a timer, the stack pointer (R7: BYTE_W, REG_W, TIMER_W, SP_W). -/
abbrev Byte := BitVec 8

/-- Sixteen bits: `I`, `PC`, a stack entry, a fetched instruction word (R7: I_W, PC_W, STACK_W, INSTR_LEN). -/
abbrev Word := BitVec 16

/-- The index of a general register, a 4-bit field of an instruction (R10, R46). -/
abbrev Reg := Fin 16

/-- The index of a framebuffer cell (R19). -/
abbrev CellIdx := Fin 2048

/-- The framebuffer: 2048 cells of two values, `true` lit and `false` unlit (R19). -/
abbrev Video := Vector Bool 2048

/-- The key vector: 16 booleans, `true` pressed (R18). -/
abbrev KeyVector := Vector Bool 16

end Sys2Proof
end

