-- ==== Sys2Proof/Config.lean ====
section
/-! DEFINITION. What this hardware fixes (the parameter table of spec/00_scope.md R7) and the one free value.

R7 asks a model to keep the parameters the spec DECIDED as configuration fields with the decided default.
The sizes and addresses are numbers below; each policy for which the spec names an alternative is a constant
of its own small type, set to the decided default, and the operation it steers has an arm for each choice.
The fault policies OOR and STACK have no alternative on offer (spec/93_implementation_defined.md U8, U9), and TICK and RND
are free inputs (decisions D19, D20). -/

namespace Sys2Proof.Config

/-- MEM_SIZE: valid addresses are 0 to MEM_SIZE - 1 (R7, R30, R32). -/
@[simp] abbrev memSize : Nat := 4096

/-- RESET_PC (R7, R27). -/
@[simp] abbrev resetPc : Word := 0x0200#16

/-- PROG_BASE: the program load address (R7, R132). -/
@[simp] abbrev progBase : Nat := 0x200

/-- PROG_MAX: the largest program image in bytes (R7, R132). -/
@[simp] abbrev progMax : Nat := 3583

/-- STACK_DEPTH: entries of the call-address stack (R7, R15). -/
@[simp] abbrev stackDepth : Nat := 16

/-- FONT_BASE: the address of the font table (R7, R131). -/
@[simp] abbrev fontBase : Nat := 0x050

/-- GLYPH_LEN: the bytes of one glyph (R7, R131). -/
@[simp] abbrev glyphLen : Nat := 5

/-- SCREEN_W (R7, R94). -/
@[simp] abbrev screenW : Nat := 64

/-- SCREEN_H (R7, R94). -/
@[simp] abbrev screenH : Nat := 32

/-! RESET: the values of R28 other than RESET_PC (R7; decision D18). UNVERIFIED, unsafe: log entry 3. -/

/-- `V[0]` to `V[15]` after Reset (R28). -/
@[simp] abbrev resetReg : Byte := 0x00#8

/-- `I` after Reset (R28). -/
@[simp] abbrev resetIndex : Word := 0x0000#16

/-- `SP` after Reset (R28). -/
@[simp] abbrev resetSp : Byte := 0x00#8

/-- `STACK[0]` to `STACK[15]` after Reset (R28). -/
@[simp] abbrev resetStackEntry : Word := 0x0000#16

/-- `DT` after Reset (R28). -/
@[simp] abbrev resetDelayTimer : Byte := 0x00#8

/-- `ST` after Reset (R28). -/
@[simp] abbrev resetSoundTimer : Byte := 0x00#8

/-- `KEYS[0]` to `KEYS[15]` after Reset: released (R28). -/
@[simp] abbrev resetKey : Bool := false

/-- `VIDEO[0]` to `VIDEO[2047]` after Reset: unlit (R28). -/
@[simp] abbrev resetCell : Bool := false

/-- `UD` after Reset (R28). -/
@[simp] abbrev resetDirty : Bool := false

/-- What a byte of memory that nothing has written reads as: `MEM` after Reset (R28). UNVERIFIED, unsafe: log entry 4. -/
@[simp] abbrev unlistedByte : Byte := 0x00#8

/-- `FAULT` after Reset: no cause, whatever the causes are (R28; decision D5). -/
@[simp] abbrev resetLatch {cause : Type} : Option cause := none

/-- DRAW_EDGE: what happens to a sprite pixel past the right or bottom edge. -/
inductive DrawEdge where
  /-- each coordinate wraps separately -/
  | wrap
  /-- the pixel is not drawn -/
  | clip
  deriving DecidableEq, Repr

/-- WRAP (R7, R93; decision D7). UNVERIFIED, unsafe: log entry 13. -/
@[simp] abbrev drawEdge : DrawEdge := .wrap

/-- OPERAND_SAMPLING: which values of the register operands an instruction computes from. -/
inductive OperandSampling where
  /-- those from before every write of the step -/
  | beforeWrites
  /-- those that the step's own write of VF has left -/
  | afterFirstWrite
  deriving DecidableEq, Repr

/-- All read before any write (R7, R58; decision D9). UNVERIFIED, unsafe: log entry 14. -/
@[simp] abbrev operandSampling : OperandSampling := .beforeWrites

/-- VF_ORDER: which of the two writes of a flag-writing instruction comes first. -/
inductive VfOrder where
  /-- the flag, then the result: with x = 15 the result stands -/
  | flagFirst
  /-- the result, then the flag: with x = 15 the flag stands -/
  | resultFirst
  deriving DecidableEq, Repr

/-- Flag first, result second (R7, R82; decision D10). UNVERIFIED, unsafe: log entry 14. -/
@[simp] abbrev vfOrder : VfOrder := .flagFirst

/-- SHIFT_SRC: the register SHR and SHL shift. -/
inductive ShiftSrc where
  /-- `V[x]`, in place -/
  | vx
  /-- `V[y]`, shifted into `V[x]` -/
  | vy
  deriving DecidableEq, Repr

/-- `V[x]` in place; `V[y]` is not read (R7, R78, R80; decision D11). UNVERIFIED, unsafe: log entry 15. -/
@[simp] abbrev shiftSrc : ShiftSrc := .vx

/-- LDST_I: what a block store or load leaves in `I`. -/
inductive LdstI where
  /-- `I` as before -/
  | unchanged
  /-- `I` plus the number of bytes moved -/
  | advanced
  deriving DecidableEq, Repr

/-- Unchanged (R7, R89, R90; decision D12). UNVERIFIED, unsafe: log entry 16. -/
@[simp] abbrev ldstI : LdstI := .unchanged

/-- JP0_REG: the register `Bnnn` adds. -/
inductive Jp0Reg where
  /-- `V[0]` -/
  | v0
  /-- `V[x]`, x the top digit of nnn -/
  | vx
  deriving DecidableEq, Repr

/-- `V[0]` (R7, R68; decision D13). UNVERIFIED, unsafe: log entry 17. -/
@[simp] abbrev jp0Reg : Jp0Reg := .v0

/-- KEYIDX_POLICY: what SKP and SKNP do with a key index above 15. -/
inductive KeyIdxPolicy where
  /-- raise KeyIndexOutOfRange -/
  | fault
  /-- use the low four bits -/
  | mask
  deriving DecidableEq, Repr

/-- FAULT (R7, R96, R97; decision D6). UNVERIFIED, safe: log entry 23. -/
@[simp] abbrev keyIdxPolicy : KeyIdxPolicy := .fault

/-- ADDI_WRAP: the modulus of `I + V[x]` (R7, R86; decision D14). UNVERIFIED, unsafe: log entry 18. -/
@[simp] abbrev addIModulus : Nat := 65536

/-- CELL_ORDER: the framebuffer index of pixel (px, py), row-major from the top left (R7, R94; decision D8).
UNVERIFIED, unsafe: log entry 19. -/
@[simp] abbrev cellNumber (px py : Nat) : Nat := py * screenW + px

/-- FONT: the default 80 bytes of LoadFont, the table of R131 (decision D25). UNVERIFIED, unsafe: log entry 22. -/
def defaultFont : Vector Byte 80 :=
  ⟨#[0xF0, 0x90, 0x90, 0x90, 0xF0] ++ #[0x20, 0x60, 0x20, 0x20, 0x70] ++
   #[0xF0, 0x10, 0xF0, 0x80, 0xF0] ++ #[0xF0, 0x10, 0xF0, 0x10, 0xF0] ++
   #[0x90, 0x90, 0xF0, 0x10, 0x10] ++ #[0xF0, 0x80, 0xF0, 0x10, 0xF0] ++
   #[0xF0, 0x80, 0xF0, 0x90, 0xF0] ++ #[0xF0, 0x10, 0x20, 0x40, 0x40] ++
   #[0xF0, 0x90, 0xF0, 0x90, 0xF0] ++ #[0xF0, 0x90, 0xF0, 0x10, 0xF0] ++
   #[0xF0, 0x90, 0xF0, 0x90, 0x90] ++ #[0xE0, 0x90, 0xE0, 0x90, 0xE0] ++
   #[0xF0, 0x80, 0x80, 0x80, 0xF0] ++ #[0xE0, 0x90, 0x90, 0x90, 0xE0] ++
   #[0xF0, 0x80, 0xF0, 0x80, 0xF0] ++ #[0xF0, 0x80, 0xF0, 0x80, 0x80], by decide⟩

/-- FREE VALUE. The random byte the environment supplies to the n-th RND (R6, R25, R81; U4). No body: nothing can be
proved about any of its values, so a statement that mentions it holds for every byte. DESIGN CHOICE, safe: log entry 1. -/
opaque randomByte : Nat → Byte

end Sys2Proof.Config
end

