-- ==== Sys2Proof/Machine/State.lean ====
section
/-! DEFINITION. The state of the machine as plain data (spec/10_state.md), the reasons a step can stop, and reset. -/

namespace Sys2Proof.Machine

/-- The five causes of a synchronous fault, with the codes of R110 (60_exceptions.md). A fault is a piece of the machine's
state (R22): raising one is a NEXT state with the latch set, not a stop of the model. -/
inductive FaultCause where
  /-- code 1: the fetch, when `PC` > 0xFFE -/
  | fetchOutOfRange
  /-- code 2: DRW, LD B, LD [I], LD Vx,[I], when the highest address is above 0xFFF -/
  | dataOutOfRange
  /-- code 3: CALL, when `SP` >= 16 -/
  | stackOverflow
  /-- code 4: RET, when `SP` = 0 -/
  | stackUnderflow
  /-- code 5: SKP and SKNP, when `V[x]` > 15 -/
  | keyIndexOutOfRange
  deriving DecidableEq, Repr

/-- Why a step has no next state. -/
inductive Fault where
  /-- Raised by `step` in a state whose fault latch holds a cause: the engine has no step until Reset (R112). The state
  stays as it is. Safe. -/
  | halted (cause : FaultCause)
  /-- Raised by RET when `SP` > 16: the entry `STACK[SP-1]` does not exist (R15). No run reaches such a state (R14).
  Safe. Log entry 6. -/
  | noStackEntry (sp : Byte)
  deriving DecidableEq, Repr

/-- Why the model gives no meaning. -/
inductive Refusal where
  /-- Raised by an arm of `exec` whose instruction has no meaning yet; no arm is left. Safe. -/
  | notModelled (mnemonic : String)
  /-- Raised by the host event LoadProgram for an image longer than 3583 bytes, which R132 puts outside the model
  (U6). No instruction raises it. Safe. Log entry 9. -/
  | imageTooLarge (length : Nat)
  deriving DecidableEq, Repr

/-- Memory as cells (address, byte), in the canonical form `Memory.wf` of Machine/Ops.lean: addresses strictly rising
and in range, no cell holding what an unlisted address reads as (R21, R30). -/
abbrev Memory := List Host.Cell

/-- Everything the spec gives the machine (R10 to R22), and the model's own counter of random draws. -/
structure State where
  /-- `V[0]` to `V[15]` (R10); `V[15]` is the flag register VF (R11) -/
  regs : Vector Byte 16
  /-- `I` (R12) -/
  index : Word
  /-- `PC` (R13) -/
  pc : Word
  /-- `SP`, the number of return addresses held (R14) -/
  sp : Byte
  /-- `STACK[0]` to `STACK[15]` (R15) -/
  stack : Vector Word 16
  /-- `DT` (R16) -/
  delayTimer : Byte
  /-- `ST` (R17) -/
  soundTimer : Byte
  /-- `KEYS[0]` to `KEYS[15]` (R18) -/
  keys : KeyVector
  /-- `VIDEO[0]` to `VIDEO[2047]` (R19) -/
  video : Video
  /-- `UD` (R20) -/
  dirty : Bool
  /-- `MEM` (R21) -/
  mem : Memory
  /-- `FAULT` (R22) -/
  latch : Option FaultCause
  /-- the model's own: how many random bytes RND has consumed; the argument of `Config.randomByte` (R25; log entry 1) -/
  draws : Nat
  deriving DecidableEq, Repr

/-- The state after Reset (R28, R130): `PC` = 0x200, everything else zero, released, unlit, no fault. The draw counter
is the model's own (DESIGN CHOICE, log entry 1); the zeros are the spec's decision D18 (UNVERIFIED, log entry 3). -/
def State.reset : State where
  regs := Vector.replicate 16 Config.resetReg
  index := Config.resetIndex
  pc := Config.resetPc
  sp := Config.resetSp
  stack := Vector.replicate 16 Config.resetStackEntry
  delayTimer := Config.resetDelayTimer
  soundTimer := Config.resetSoundTimer
  keys := Vector.replicate 16 Config.resetKey
  video := Vector.replicate 2048 Config.resetCell
  dirty := Config.resetDirty
  mem := []
  latch := Config.resetLatch
  draws := 0

end Sys2Proof.Machine
end

