-- ==== Sys2Proof/Machine/Ops.lean ====
section
/-! DEFINITION. The named operations over registers, memory and the call-address stack, and taking a fault. -/

namespace Sys2Proof.Machine

/-! ## One write of each state element -/

/-- `V[r]`: no register is hardwired (R10). -/
def State.reg (s : State) (r : Reg) : Byte := s.regs[r]

/-- `V[r] <- v` (R10). -/
def State.setReg (s : State) (r : Reg) (v : Byte) : State := { s with regs := s.regs.set r v }

/-- `I <- v` (R12). -/
def State.setIndex (s : State) (v : Word) : State := { s with index := v }

/-- `PC <- v` (R13). -/
def State.setPc (s : State) (v : Word) : State := { s with pc := v }

/-- `SP <- v` (R14). -/
def State.setSp (s : State) (v : Byte) : State := { s with sp := v }

/-- The whole call-address stack replaced (R15). -/
def State.setStack (s : State) (v : Vector Word 16) : State := { s with stack := v }

/-- `DT <- v` (R16). -/
def State.setDelayTimer (s : State) (v : Byte) : State := { s with delayTimer := v }

/-- `ST <- v` (R17). -/
def State.setSoundTimer (s : State) (v : Byte) : State := { s with soundTimer := v }

/-- The whole key vector replaced (R18). -/
def State.setKeys (s : State) (v : KeyVector) : State := { s with keys := v }

/-- The whole framebuffer replaced (R19). -/
def State.setVideo (s : State) (v : Video) : State := { s with video := v }

/-- `UD <- v` (R20). -/
def State.setDirty (s : State) (v : Bool) : State := { s with dirty := v }

/-- The whole memory replaced (R21). -/
def State.setMem (s : State) (v : Memory) : State := { s with mem := v }

/-- `FAULT <- v` (R22). -/
def State.setLatch (s : State) (v : Option FaultCause) : State := { s with latch := v }

/-- The model's draw counter. -/
def State.setDraws (s : State) (v : Nat) : State := { s with draws := v }

/-! ## Operand sampling (30_encoding.md R58) -/

/-- The state an instruction takes its register operands from, of the state before its writes and the state its first
write has left (R58; OPERAND_SAMPLING). -/
def sampledState (before written : State) : State :=
  match Config.operandSampling with
  | .beforeWrites => before
  | .afterFirstWrite => written

/-! ## Memory (20_memory.md) -/

/-- The byte at an address (R33); an unlisted address reads as `Config.unlistedByte`. -/
def Memory.read : Memory → Nat → Byte
  | [], _ => Config.unlistedByte
  | (b, w) :: m, a => if a = b then w else Memory.read m a

/-- The cells without those at one address. -/
def Memory.erase : Memory → Nat → Memory
  | [], _ => []
  | (b, w) :: m, a => if a = b then Memory.erase m a else (b, w) :: Memory.erase m a

/-- A cell put before the first cell with a higher address. -/
def Memory.insert : Memory → Nat → Byte → Memory
  | [], a, v => [(a, v)]
  | (b, w) :: m, a, v => if a < b then (a, v) :: (b, w) :: m else (b, w) :: Memory.insert m a v

/-- The store of one byte (R33), keeping the canonical form: the byte an unlisted address reads as is not listed. -/
def Memory.write (m : Memory) (a : Nat) (v : Byte) : Memory :=
  if v = Config.unlistedByte then m.erase a else (m.erase a).insert a v

/-- The canonical form: strictly rising addresses, all below MEM_SIZE, no cell equal to what an unlisted one reads. -/
def Memory.wf : Memory → Bool
  | [] => true
  | (b, w) :: m =>
    decide (b < Config.memSize) && decide (w ≠ Config.unlistedByte) && m.all (fun c => decide (b < c.1)) && Memory.wf m

/-- The stores of consecutive bytes from an address up, in ascending order (R35, R37). -/
def Memory.writeBlock : Memory → Nat → List Byte → Memory
  | m, _, [] => m
  | m, a, b :: bs => Memory.writeBlock (m.write a b) (a + 1) bs

/-- The reads of `n` consecutive bytes from an address up, in ascending order (R35, R37). -/
def Memory.readBlock (m : Memory) : Nat → Nat → List Byte
  | _, 0 => []
  | a, n + 1 => m.read a :: Memory.readBlock m (a + 1) n

/-- An access of `n` bytes from `base` up is valid: every address is at most 0xFFF (R32). An access of no byte is. -/
def blockValid (base n : Nat) : Bool := n == 0 || decide (base + (n - 1) < Config.memSize)

/-! ## The call-address stack (10_state.md R15) -/

/-- `STACK[i]`, where there is such an entry. -/
def State.stackEntry (s : State) (i : Nat) : Option Word := s.stack[i]?

/-- `STACK[i] <- v`; `i` is below 16 wherever a rule writes. -/
def State.setStackEntry (s : State) (i : Nat) (v : Word) : State := s.setStack (s.stack.setIfInBounds i v)

/-! ## The program counter inside a handler (R13, R57) -/

/-- `PC + 2 mod 2^16`: the fetch's advance, and again a skip (R57, R69). -/
def State.advance (s : State) : State := s.setPc (s.pc + 2#16)

/-- `PC - 2 mod 2^16`: back to the address of the instruction under way (R98, R111). -/
def State.rewind (s : State) : State := s.setPc (s.pc - 2#16)

/-- A skip when the condition holds (R69). -/
def State.skipIf (s : State) (c : Bool) : State := if c then s.advance else s

/-! ## Taking a fault (60_exceptions.md R110, R111) -/

/-- The cause codes of R110, the spec's own numbering (decision D5). -/
def FaultCause.code : FaultCause → Nat
  | .fetchOutOfRange => 1
  | .dataOutOfRange => 2
  | .stackOverflow => 3
  | .stackUnderflow => 4
  | .keyIndexOutOfRange => 5

/-- The entry of a fault, for every cause: the step ends with each element as it was before the step and the latch set.
`s` is the state before the step. Nothing is saved, no mode changes, control goes nowhere; there is no return (R112). -/
def takeFault (cause : FaultCause) (s : State) : Host.Outcome State Fault Refusal :=
  .next (s.setLatch (some cause))

/-- `raise` inside a handler: `s` is the state the handler was given, whose one difference from the state before the
step is the fetch's advance, undone here (R111). -/
def raise (cause : FaultCause) (s : State) : Host.Outcome State Fault Refusal := takeFault cause s.rewind

end Sys2Proof.Machine
end

