-- ==== Sys2Proof/Machine/Flags.lean ====
section
/-! DEFINITION. The flag computations and the one way a flag and a result are written (spec/41_alu.md R82, R83). The only
flag is VF, register 15 (R11). -/

namespace Sys2Proof.Machine

/-- VF (R10, R11). -/
abbrev vf : Reg := 15

/-- A condition as the flag's value. -/
def flagByte (c : Bool) : Byte := if c then 0x01#8 else 0x00#8

/-- The carry of a sum, tested on the true sum (R76, R83). -/
def carryOf (a b : Byte) : Bool := decide (a.toNat + b.toNat > 255)

/-- NOT borrow of a difference: minuend at least subtrahend (R77, R79). -/
def noBorrowOf (minuend subtrahend : Byte) : Bool := decide (minuend.toNat ≥ subtrahend.toNat)

/-- The bit a right shift loses (R78). -/
def lostByShr (v : Byte) : Bool := v.getLsbD 0

/-- The bit a left shift loses (R80). -/
def lostByShl (v : Byte) : Bool := v.getLsbD 7

/-- The stored sum, modulo 256 (R83). -/
def sumOf (a b : Byte) : Byte := BitVec.ofNat 8 (a.toNat + b.toNat)

/-- The stored difference, modulo 256: a - b + 256 where a < b (R83). -/
def differenceOf (a b : Byte) : Byte := BitVec.ofNat 8 (a.toNat + 256 - b.toNat)

/-- The logical right shift by one (R78). -/
def shiftedRight (v : Byte) : Byte := BitVec.ofNat 8 (v.toNat / 2)

/-- The left shift by one, modulo 256 (R80). -/
def shiftedLeft (v : Byte) : Byte := BitVec.ofNat 8 (v.toNat * 2)

/-- The two writes of a flag-writing instruction, flag first (R82; VF_ORDER). Flag and result are functions of the state
the operands are sampled from (R58; OPERAND_SAMPLING). -/
def writeFlagAndResult (x : Reg) (flag : State → Bool) (result : State → Byte) (s : State) : State :=
  match Config.vfOrder with
  | .flagFirst =>
    let flagged := s.setReg vf (flagByte (flag s))
    flagged.setReg x (result (sampledState s flagged))
  | .resultFirst =>
    let stored := s.setReg x (result s)
    stored.setReg vf (flagByte (flag (sampledState s stored)))

end Sys2Proof.Machine
end

