-- ==== Sys2Proof/Machine/Operands.lean ====
section
/-! DEFINITION. Operand forms: what an instruction computes from the operands it samples, before it writes
(spec/30_encoding.md R53, R58; spec/20_memory.md R44). -/

namespace Sys2Proof.Machine

/-- A 12-bit address widened with zeros (R46). -/
def zextAddr (nnn : BitVec 12) : Word := nnn.setWidth 16

/-- A byte widened with zeros (R46). -/
def zextByte (v : Byte) : Word := v.setWidth 16

/-- The address of byte `k` of an access, formed without wrap-around (R44). -/
def effectiveAddr (s : State) (k : Nat) : Nat := s.index.toNat + k

/-- The access of `n` bytes at `I` is valid (R32, R44). -/
def indexBlockValid (s : State) (n : Nat) : Bool := blockValid (effectiveAddr s 0) n

/-- The register SHR and SHL shift (R78, R80; SHIFT_SRC). -/
def shiftOperand (x y : Reg) (s : State) : Byte :=
  match Config.shiftSrc with
  | .vx => s.reg x
  | .vy => s.reg y

/-- The register `Bnnn` adds (R68; JP0_REG). -/
def jumpOffset (nnn : BitVec 12) (s : State) : Byte :=
  match Config.jp0Reg with
  | .v0 => s.reg 0
  | .vx => s.reg (nnn.extractLsb' 8 4).toFin

/-- `(I + v) mod ADDI_WRAP` (R86). -/
def indexPlus (v : Byte) (s : State) : Word := BitVec.ofNat 16 ((s.index.toNat + v.toNat) % Config.addIModulus)

/-- The address of the glyph of a digit: the whole byte is used, not its low nibble (R87). -/
def glyphAddr (v : Byte) : Word := BitVec.ofNat 16 (Config.fontBase + Config.glyphLen * v.toNat)

/-- Hundreds, tens and units of a byte, most significant first (R88). -/
def bcdDigits (v : Byte) : List Byte :=
  [BitVec.ofNat 8 (v.toNat / 100), BitVec.ofNat 8 (v.toNat / 10 % 10), BitVec.ofNat 8 (v.toNat % 10)]

/-- The registers 0 to x in ascending order, the operand list of a block copy (R89, R90). -/
def regsUpTo (x : Reg) : List Reg := (List.finRange 16).filter (fun r => decide (r ≤ x))

/-- What a block copy of registers 0 to x leaves in `I` (R89, R90; LDST_I). -/
def afterBlock (x : Reg) (s : State) : State :=
  match Config.ldstI with
  | .unchanged => s
  | .advanced => s.setIndex (s.index + BitVec.ofNat 16 (x.val + 1))

/-- `V[i] <- MemRead(I + i)` for the registers of the list, in its order (R90). -/
def loadRegs : List Reg → State → State
  | [], s => s
  | r :: rs, s => loadRegs rs (s.setReg r (s.mem.read (effectiveAddr s r.val)))

/-- `KEYS[v]` where the byte is a key index (R96, R97; KEYIDX_POLICY). -/
def keyAt (s : State) (v : Byte) : Option Bool :=
  match Config.keyIdxPolicy with
  | .fault => s.keys[v.toNat]?
  | .mask => s.keys[v.toNat % 16]?

/-- The least pressed key (R98). -/
def firstPressed (s : State) : Option (Fin 16) := (List.finRange 16).find? (fun i => s.keys[i])

end Sys2Proof.Machine
end

