-- ==== Sys2Proof/Machine/Alu.lean ====
section
/-! DEFINITION. Register load, arithmetic, logic, shift and random instructions (spec/41_alu.md). The state given has `PC`
at the next instruction (R57). In an instruction with two register writes, `u` is the state its operands are sampled from
(R58); the others have one write, which comes after every read. -/

namespace Sys2Proof.Machine

/-- LD Vx, byte (R70). -/
def execLdByte (x : Reg) (kk : Byte) (s : State) : Host.Outcome State Fault Refusal :=
  .next (s.setReg x kk)

/-- ADD Vx, byte: VF is not written (R71). -/
def execAddByte (x : Reg) (kk : Byte) (s : State) : Host.Outcome State Fault Refusal :=
  .next (s.setReg x (sumOf (s.reg x) kk))

/-- LD Vx, Vy (R72). -/
def execLdReg (x y : Reg) (s : State) : Host.Outcome State Fault Refusal :=
  .next (s.setReg x (s.reg y))

/-- OR Vx, Vy: VF is not written (R73). -/
def execOrReg (x y : Reg) (s : State) : Host.Outcome State Fault Refusal :=
  .next (s.setReg x (s.reg x ||| s.reg y))

/-- AND Vx, Vy: VF is not written (R74). -/
def execAndReg (x y : Reg) (s : State) : Host.Outcome State Fault Refusal :=
  .next (s.setReg x (s.reg x &&& s.reg y))

/-- XOR Vx, Vy: VF is not written (R75). -/
def execXorReg (x y : Reg) (s : State) : Host.Outcome State Fault Refusal :=
  .next (s.setReg x (s.reg x ^^^ s.reg y))

/-- ADD Vx, Vy: VF is the carry out; none comes in (R76). -/
def execAddReg (x y : Reg) (s : State) : Host.Outcome State Fault Refusal :=
  .next (writeFlagAndResult x (fun u => carryOf (u.reg x) (u.reg y)) (fun u => sumOf (u.reg x) (u.reg y)) s)

/-- SUB Vx, Vy: `vx - vy`, VF is NOT borrow (R77). -/
def execSubReg (x y : Reg) (s : State) : Host.Outcome State Fault Refusal :=
  .next (writeFlagAndResult x (fun u => noBorrowOf (u.reg x) (u.reg y)) (fun u => differenceOf (u.reg x) (u.reg y)) s)

/-- SHR Vx: VF is the old bit 0 (R78). -/
def execShr (x y : Reg) (s : State) : Host.Outcome State Fault Refusal :=
  .next (writeFlagAndResult x (fun u => lostByShr (shiftOperand x y u)) (fun u => shiftedRight (shiftOperand x y u)) s)

/-- SUBN Vx, Vy: `vy - vx`, VF is NOT borrow (R79). -/
def execSubnReg (x y : Reg) (s : State) : Host.Outcome State Fault Refusal :=
  .next (writeFlagAndResult x (fun u => noBorrowOf (u.reg y) (u.reg x)) (fun u => differenceOf (u.reg y) (u.reg x)) s)

/-- SHL Vx: VF is the old bit 7 (R80). -/
def execShl (x y : Reg) (s : State) : Host.Outcome State Fault Refusal :=
  .next (writeFlagAndResult x (fun u => lostByShl (shiftOperand x y u)) (fun u => shiftedLeft (shiftOperand x y u)) s)

/-- The effect of RND for a given random byte: `V[x] <- rnd & kk` (R81). -/
def randomAnd (rnd : Byte) (x : Reg) (kk : Byte) (s : State) : State := s.setReg x (rnd &&& kk)

/-- RND Vx, byte: the random byte is the free value of this draw, and the draw is counted (R81; log entry 1). -/
def execRnd (x : Reg) (kk : Byte) (s : State) : Host.Outcome State Fault Refusal :=
  .next ((randomAnd (Config.randomByte s.draws) x kk s).setDraws (s.draws + 1))

end Sys2Proof.Machine
end

