-- ==== Sys2Proof/Machine/Sprite.lean ====
section
/-! DEFINITION. The pixel-collision XOR unit (spec/43_display.md R93, R94, R95). -/

namespace Sys2Proof.Machine

/-- The cell of pixel (px, py) of a sprite, after the edge policy; `none` for a pixel the policy drops (R93, R94). -/
def cellAt (px py : Nat) : Option CellIdx :=
  match Config.drawEdge with
  | .wrap => some (Fin.ofNat 2048 (Config.cellNumber (px % Config.screenW) (py % Config.screenH)))
  | .clip =>
    if px < Config.screenW ∧ py < Config.screenH then some (Fin.ofNat 2048 (Config.cellNumber px py)) else none

/-- The cells of the 1 bits of one sprite row whose first pixel is (x0, y), leftmost first: bit 7 is column offset 0 (R95). -/
def rowCells (x0 y : Nat) (b : Byte) : List CellIdx :=
  (List.range 8).filterMap (fun col => if b.getLsbD (7 - col) then cellAt (x0 + col) y else none)

/-- The cells of a sprite's 1 bits, top row first (R93, R95). -/
def spriteCells (x0 y0 : Nat) : List Byte → List CellIdx
  | [] => []
  | b :: bs => rowCells x0 y0 b ++ spriteCells x0 (y0 + 1) bs

/-- One toggle of a cell, with the collision noted: a lit cell turned off (R93). -/
def toggleCell (acc : Video × Bool) (c : CellIdx) : Video × Bool :=
  (acc.1.set c (!acc.1[c]), acc.2 || acc.1[c])

/-- The toggles of a list of cells in order, from no collision (R93). -/
def toggleCells (v : Video) (cs : List CellIdx) : Video × Bool := cs.foldl toggleCell (v, false)

/-- A sprite drawn at (vx, vy): the start position is taken modulo the screen size (R93). -/
def drawSprite (v : Video) (vx vy : Byte) (rows : List Byte) : Video × Bool :=
  toggleCells v (spriteCells (vx.toNat % Config.screenW) (vy.toNat % Config.screenH) rows)

end Sys2Proof.Machine
end

