-- ==== Sys2Proof/Machine/Display.lean ====
section
/-! DEFINITION. Display instructions (spec/43_display.md). -/

namespace Sys2Proof.Machine

/-- CLS: every cell unlit, UD set (R92). -/
def execCls (s : State) : Host.Outcome State Fault Refusal :=
  .next ((s.setVideo (Vector.replicate 2048 false)).setDirty true)

/-- DRW Vx, Vy, nibble: the range of the n rows is checked first; the position is sampled before VF is written; VF is the
collision of this draw; UD is set whether or not a cell changed (R93). `u` is the state the position is sampled from (R58),
the other choice being the one with VF cleared. -/
def execDrw (x y : Reg) (n : Fin 16) (s : State) : Host.Outcome State Fault Refusal :=
  if indexBlockValid s n.val then
    let u := sampledState s (s.setReg vf 0x00#8)
    let drawn := drawSprite s.video (u.reg x) (u.reg y) (s.mem.readBlock (effectiveAddr s 0) n.val)
    .next (((s.setReg vf (flagByte drawn.2)).setVideo drawn.1).setDirty true)
  else raise .dataOutOfRange s

end Sys2Proof.Machine
end

