-- ==== Sys2Proof/Machine/Flow.lean ====
section
/-! DEFINITION. Control-transfer instructions (spec/40_flow.md). The state given has `PC` at the next instruction (R57). -/

namespace Sys2Proof.Machine

/-- SYS addr: nothing (R60). -/
def execSys (_nnn : BitVec 12) (s : State) : Host.Outcome State Fault Refusal :=
  .next s

/-- RET: StackUnderflow at depth 0, else `SP <- SP - 1; PC <- STACK[SP]` (R61). At an `SP` above 16, which no run reaches
(R14), there is no entry to read and the model stops (log entry 6). -/
def execRet (s : State) : Host.Outcome State Fault Refusal :=
  if s.sp = 0#8 then raise .stackUnderflow s
  else
    match s.stackEntry (s.sp.toNat - 1) with
    | some target => .next ((s.setSp (s.sp - 1#8)).setPc target)
    | none => .fault (.noStackEntry s.sp)

/-- JP addr (R62). -/
def execJp (nnn : BitVec 12) (s : State) : Host.Outcome State Fault Refusal :=
  .next (s.setPc (zextAddr nnn))

/-- CALL addr: StackOverflow at depth 16, else push the next address and jump (R63). -/
def execCall (nnn : BitVec 12) (s : State) : Host.Outcome State Fault Refusal :=
  if s.sp.toNat ≥ Config.stackDepth then raise .stackOverflow s
  else .next (((s.setStackEntry s.sp.toNat s.pc).setSp (s.sp + 1#8)).setPc (zextAddr nnn))

/-- SE Vx, byte (R64). -/
def execSeByte (x : Reg) (kk : Byte) (s : State) : Host.Outcome State Fault Refusal :=
  .next (s.skipIf (s.reg x == kk))

/-- SNE Vx, byte (R65). -/
def execSneByte (x : Reg) (kk : Byte) (s : State) : Host.Outcome State Fault Refusal :=
  .next (s.skipIf (s.reg x != kk))

/-- SE Vx, Vy (R66). -/
def execSeReg (x y : Reg) (s : State) : Host.Outcome State Fault Refusal :=
  .next (s.skipIf (s.reg x == s.reg y))

/-- SNE Vx, Vy (R67). -/
def execSneReg (x y : Reg) (s : State) : Host.Outcome State Fault Refusal :=
  .next (s.skipIf (s.reg x != s.reg y))

/-- JP V0, addr: the sum is kept in 16 bits, not reduced to 12 (R68). -/
def execJpV0 (nnn : BitVec 12) (s : State) : Host.Outcome State Fault Refusal :=
  .next (s.setPc (zextAddr nnn + zextByte (jumpOffset nnn s)))

end Sys2Proof.Machine
end

