-- ==== Sys2Proof/Machine/IndexMemory.lean ====
section
/-! DEFINITION. Index-register and memory instructions (spec/42_index_memory.md). The whole range of an access is checked
before its first byte (R32), so a fault leaves nothing half done (R111). -/

namespace Sys2Proof.Machine

/-- LD I, addr (R85). -/
def execLdI (nnn : BitVec 12) (s : State) : Host.Outcome State Fault Refusal :=
  .next (s.setIndex (zextAddr nnn))

/-- ADD I, Vx: VF is not written (R86). -/
def execAddI (x : Reg) (s : State) : Host.Outcome State Fault Refusal :=
  .next (s.setIndex (indexPlus (s.reg x) s))

/-- LD F, Vx (R87). -/
def execLdF (x : Reg) (s : State) : Host.Outcome State Fault Refusal :=
  .next (s.setIndex (glyphAddr (s.reg x)))

/-- LD B, Vx: three decimal digits to `I`, `I`+1, `I`+2 (R88). -/
def execLdB (x : Reg) (s : State) : Host.Outcome State Fault Refusal :=
  if indexBlockValid s 3 then
    .next (s.setMem (s.mem.writeBlock (effectiveAddr s 0) (bcdDigits (s.reg x))))
  else raise .dataOutOfRange s

/-- LD [I], Vx: registers 0 to x to `I` and up (R89). -/
def execLdMemVx (x : Reg) (s : State) : Host.Outcome State Fault Refusal :=
  if indexBlockValid s (x.val + 1) then
    .next (afterBlock x (s.setMem (s.mem.writeBlock (effectiveAddr s 0) ((regsUpTo x).map s.reg))))
  else raise .dataOutOfRange s

/-- LD Vx, [I]: registers 0 to x from `I` and up (R90). -/
def execLdVxMem (x : Reg) (s : State) : Host.Outcome State Fault Refusal :=
  if indexBlockValid s (x.val + 1) then .next (afterBlock x (loadRegs (regsUpTo x) s))
  else raise .dataOutOfRange s

end Sys2Proof.Machine
end

