-- ==== Sys2Proof/Machine/KeysTimers.lean ====
section
/-! DEFINITION. Key and timer instructions (spec/44_keys_timers.md). -/

namespace Sys2Proof.Machine

/-- SKP Vx: the key index is the register's value (R96). -/
def execSkp (x : Reg) (s : State) : Host.Outcome State Fault Refusal :=
  match keyAt s (s.reg x) with
  | some pressed => .next (s.skipIf pressed)
  | none => raise .keyIndexOutOfRange s

/-- SKNP Vx (R97). -/
def execSknp (x : Reg) (s : State) : Host.Outcome State Fault Refusal :=
  match keyAt s (s.reg x) with
  | some pressed => .next (s.skipIf (!pressed))
  | none => raise .keyIndexOutOfRange s

/-- LD Vx, K: the least pressed key, or `PC` back to this instruction (R98). -/
def execLdVxK (x : Reg) (s : State) : Host.Outcome State Fault Refusal :=
  match firstPressed s with
  | some i => .next (s.setReg x (BitVec.ofNat 8 i.val))
  | none => .next s.rewind

/-- LD Vx, DT (R99). -/
def execLdVxDt (x : Reg) (s : State) : Host.Outcome State Fault Refusal :=
  .next (s.setReg x s.delayTimer)

/-- LD DT, Vx (R100). -/
def execLdDtVx (x : Reg) (s : State) : Host.Outcome State Fault Refusal :=
  .next (s.setDelayTimer (s.reg x))

/-- LD ST, Vx (R101). -/
def execLdStVx (x : Reg) (s : State) : Host.Outcome State Fault Refusal :=
  .next (s.setSoundTimer (s.reg x))

end Sys2Proof.Machine
end

