-- ==== Sys2Proof/Syntax.lean ====
section
/-! DEFINITION. The instructions: one constructor for each row of spec/opcode_table.json (30_encoding.md R49), with the
fields of its format (R46, R50). A register field is a `Reg`, `kk` and `nnn` are the bits of the word, `n` is a count.
A bit that the dispatch key discards and no field names (`-` in the table) is no part of the instruction (R51). -/

namespace Sys2Proof

/-- The 35 instructions, in the order of R49. -/
inductive Instr where
  /-- row 1, `0nnn` -/
  | sys (nnn : BitVec 12)
  /-- row 2, `00E0` -/
  | cls
  /-- row 3, `00EE` -/
  | ret
  /-- row 4, `1nnn` -/
  | jp (nnn : BitVec 12)
  /-- row 5, `2nnn` -/
  | call (nnn : BitVec 12)
  /-- row 6, `3xkk` -/
  | seByte (x : Reg) (kk : Byte)
  /-- row 7, `4xkk` -/
  | sneByte (x : Reg) (kk : Byte)
  /-- row 8, `5xy0` -/
  | seReg (x y : Reg)
  /-- row 9, `6xkk` -/
  | ldByte (x : Reg) (kk : Byte)
  /-- row 10, `7xkk` -/
  | addByte (x : Reg) (kk : Byte)
  /-- row 11, `8xy0` -/
  | ldReg (x y : Reg)
  /-- row 12, `8xy1` -/
  | orReg (x y : Reg)
  /-- row 13, `8xy2` -/
  | andReg (x y : Reg)
  /-- row 14, `8xy3` -/
  | xorReg (x y : Reg)
  /-- row 15, `8xy4` -/
  | addReg (x y : Reg)
  /-- row 16, `8xy5` -/
  | subReg (x y : Reg)
  /-- row 17, `8xy6`; y is a field of the row that the operation does not use (R78) -/
  | shr (x y : Reg)
  /-- row 18, `8xy7` -/
  | subnReg (x y : Reg)
  /-- row 19, `8xyE`; y is a field of the row that the operation does not use (R80) -/
  | shl (x y : Reg)
  /-- row 20, `9xy0` -/
  | sneReg (x y : Reg)
  /-- row 21, `Annn` -/
  | ldI (nnn : BitVec 12)
  /-- row 22, `Bnnn` -/
  | jpV0 (nnn : BitVec 12)
  /-- row 23, `Cxkk` -/
  | rnd (x : Reg) (kk : Byte)
  /-- row 24, `Dxyn` -/
  | drw (x y : Reg) (n : Fin 16)
  /-- row 25, `Ex9E` -/
  | skp (x : Reg)
  /-- row 26, `ExA1` -/
  | sknp (x : Reg)
  /-- row 27, `Fx07` -/
  | ldVxDt (x : Reg)
  /-- row 28, `Fx0A` -/
  | ldVxK (x : Reg)
  /-- row 29, `Fx15` -/
  | ldDtVx (x : Reg)
  /-- row 30, `Fx18` -/
  | ldStVx (x : Reg)
  /-- row 31, `Fx1E` -/
  | addI (x : Reg)
  /-- row 32, `Fx29` -/
  | ldF (x : Reg)
  /-- row 33, `Fx33` -/
  | ldB (x : Reg)
  /-- row 34, `Fx55`: the block store LD [I], Vx -/
  | ldMemVx (x : Reg)
  /-- row 35, `Fx65`: the block load LD Vx, [I] -/
  | ldVxMem (x : Reg)
  deriving DecidableEq, Repr

end Sys2Proof
end

