-- ==== Sys2Proof/Decode.lean ====
section
/-! DEFINITION. From words to instructions and back (spec/30_encoding.md): the fields R46, the dispatch key R48, the
opcode map R49, the unmatched words R52, the byte order of a word R34; then the encoder, the opcode table as masks and
patterns, and the host's entry point. -/

namespace Sys2Proof

/-! ## Fields (R46) -/

/-- `raw[15:12]`, the opcode family. -/
def topNibble (raw : Word) : BitVec 4 := raw.extractLsb' 12 4

/-- `raw[11:0]`. -/
def fieldNNN (raw : Word) : BitVec 12 := raw.extractLsb' 0 12

/-- `raw[11:8]`. -/
def fieldX (raw : Word) : Reg := (raw.extractLsb' 8 4).toFin

/-- `raw[7:4]`. -/
def fieldY (raw : Word) : Reg := (raw.extractLsb' 4 4).toFin

/-- `raw[3:0]`. -/
def fieldN (raw : Word) : Fin 16 := (raw.extractLsb' 0 4).toFin

/-- `raw[7:0]`. -/
def fieldKK (raw : Word) : Byte := raw.extractLsb' 0 8

/-! ## Decode -/

/-- Why bytes or a word give no instruction. -/
inductive Reject where
  /-- fewer than two bytes: an instruction is always two (R45) -/
  | truncated
  /-- the key of this word is in no row of the table: the step is a defined no-op (R52) -/
  | unmatched (raw : Word)
  deriving DecidableEq, Repr

/-- The dispatch key (R48). -/
def dispatchKey (raw : Word) : Word :=
  let t := topNibble raw
  if t = 0x0#4 ∨ t = 0xE#4 ∨ t = 0xF#4 then raw &&& 0xF0FF#16
  else if t = 0x8#4 then raw &&& 0xF00F#16
  else raw &&& 0xF000#16

/-- The row a key selects, with its operands read from the word (R49, R53); `none` for a key of no row. Row 1 takes
every key of family 0 that rows 2 and 3 leave. -/
def lookupKey (raw key : Word) : Option Instr :=
  match key with
  | 0x00E0#16 => some .cls
  | 0x00EE#16 => some .ret
  | 0x1000#16 => some (.jp (fieldNNN raw))
  | 0x2000#16 => some (.call (fieldNNN raw))
  | 0x3000#16 => some (.seByte (fieldX raw) (fieldKK raw))
  | 0x4000#16 => some (.sneByte (fieldX raw) (fieldKK raw))
  | 0x5000#16 => some (.seReg (fieldX raw) (fieldY raw))
  | 0x6000#16 => some (.ldByte (fieldX raw) (fieldKK raw))
  | 0x7000#16 => some (.addByte (fieldX raw) (fieldKK raw))
  | 0x8000#16 => some (.ldReg (fieldX raw) (fieldY raw))
  | 0x8001#16 => some (.orReg (fieldX raw) (fieldY raw))
  | 0x8002#16 => some (.andReg (fieldX raw) (fieldY raw))
  | 0x8003#16 => some (.xorReg (fieldX raw) (fieldY raw))
  | 0x8004#16 => some (.addReg (fieldX raw) (fieldY raw))
  | 0x8005#16 => some (.subReg (fieldX raw) (fieldY raw))
  | 0x8006#16 => some (.shr (fieldX raw) (fieldY raw))
  | 0x8007#16 => some (.subnReg (fieldX raw) (fieldY raw))
  | 0x800E#16 => some (.shl (fieldX raw) (fieldY raw))
  | 0x9000#16 => some (.sneReg (fieldX raw) (fieldY raw))
  | 0xA000#16 => some (.ldI (fieldNNN raw))
  | 0xB000#16 => some (.jpV0 (fieldNNN raw))
  | 0xC000#16 => some (.rnd (fieldX raw) (fieldKK raw))
  | 0xD000#16 => some (.drw (fieldX raw) (fieldY raw) (fieldN raw))
  | 0xE09E#16 => some (.skp (fieldX raw))
  | 0xE0A1#16 => some (.sknp (fieldX raw))
  | 0xF007#16 => some (.ldVxDt (fieldX raw))
  | 0xF00A#16 => some (.ldVxK (fieldX raw))
  | 0xF015#16 => some (.ldDtVx (fieldX raw))
  | 0xF018#16 => some (.ldStVx (fieldX raw))
  | 0xF01E#16 => some (.addI (fieldX raw))
  | 0xF029#16 => some (.ldF (fieldX raw))
  | 0xF033#16 => some (.ldB (fieldX raw))
  | 0xF055#16 => some (.ldMemVx (fieldX raw))
  | 0xF065#16 => some (.ldVxMem (fieldX raw))
  | _ => if key &&& 0xF000#16 = 0x0000#16 then some (.sys (fieldNNN raw)) else none

/-- Decoding one word: total, rejecting by name (R48, R49, R52). -/
def decodeWord (raw : Word) : Except Reject Instr :=
  match lookupKey raw (dispatchKey raw) with
  | some i => .ok i
  | none => .error (.unmatched raw)

/-- A word of two bytes, the first high: big-endian (R34, R45). -/
def wordOfBytes (hi lo : Byte) : Word := hi ++ lo

/-- The two bytes of a word, the one at the lower address first (R34). -/
def bytesOfWord (raw : Word) : List Byte := [raw.extractLsb' 8 8, raw.extractLsb' 0 8]

/-- Decoding the front of a byte sequence: the instruction and the bytes after it. Total on any bytes. -/
def decodeBytes : List Byte → Except Reject (Instr × List Byte)
  | hi :: lo :: rest =>
    match decodeWord (wordOfBytes hi lo) with
    | .ok i => .ok (i, rest)
    | .error r => .error r
  | _ => .error .truncated

/-! ## Encode -/

/-- The four bits of a register field. -/
def nibbleOf (r : Fin 16) : BitVec 4 := BitVec.ofFin r

/-- Format A: family and address (R50). -/
def formatA (family : BitVec 4) (nnn : BitVec 12) : Word := family ++ nnn

/-- Format XK: family, register, byte (R50). -/
def formatXK (family : BitVec 4) (x : Reg) (kk : Byte) : Word := family ++ nibbleOf x ++ kk

/-- Formats XY and XYN: family, two registers, last nibble (R50). -/
def formatXY (family : BitVec 4) (x y : Reg) (last : BitVec 4) : Word := family ++ nibbleOf x ++ nibbleOf y ++ last

/-- Format X: family, register, sub-operation byte (R50). -/
def formatX (family : BitVec 4) (x : Reg) (sub : Byte) : Word := family ++ nibbleOf x ++ sub

/-- The canonical word of an instruction (R49, R50, R51): discarded bits are 0. -/
def encode : Instr → Word
  | .sys nnn => formatA 0x0#4 nnn
  | .cls => 0x00E0#16
  | .ret => 0x00EE#16
  | .jp nnn => formatA 0x1#4 nnn
  | .call nnn => formatA 0x2#4 nnn
  | .seByte x kk => formatXK 0x3#4 x kk
  | .sneByte x kk => formatXK 0x4#4 x kk
  | .seReg x y => formatXY 0x5#4 x y 0x0#4
  | .ldByte x kk => formatXK 0x6#4 x kk
  | .addByte x kk => formatXK 0x7#4 x kk
  | .ldReg x y => formatXY 0x8#4 x y 0x0#4
  | .orReg x y => formatXY 0x8#4 x y 0x1#4
  | .andReg x y => formatXY 0x8#4 x y 0x2#4
  | .xorReg x y => formatXY 0x8#4 x y 0x3#4
  | .addReg x y => formatXY 0x8#4 x y 0x4#4
  | .subReg x y => formatXY 0x8#4 x y 0x5#4
  | .shr x y => formatXY 0x8#4 x y 0x6#4
  | .subnReg x y => formatXY 0x8#4 x y 0x7#4
  | .shl x y => formatXY 0x8#4 x y 0xE#4
  | .sneReg x y => formatXY 0x9#4 x y 0x0#4
  | .ldI nnn => formatA 0xA#4 nnn
  | .jpV0 nnn => formatA 0xB#4 nnn
  | .rnd x kk => formatXK 0xC#4 x kk
  | .drw x y n => formatXY 0xD#4 x y (nibbleOf n)
  | .skp x => formatX 0xE#4 x 0x9E#8
  | .sknp x => formatX 0xE#4 x 0xA1#8
  | .ldVxDt x => formatX 0xF#4 x 0x07#8
  | .ldVxK x => formatX 0xF#4 x 0x0A#8
  | .ldDtVx x => formatX 0xF#4 x 0x15#8
  | .ldStVx x => formatX 0xF#4 x 0x18#8
  | .addI x => formatX 0xF#4 x 0x1E#8
  | .ldF x => formatX 0xF#4 x 0x29#8
  | .ldB x => formatX 0xF#4 x 0x33#8
  | .ldMemVx x => formatX 0xF#4 x 0x55#8
  | .ldVxMem x => formatX 0xF#4 x 0x65#8

/-- The bytes of an instruction as memory holds them (R34). -/
def encodeBytes (i : Instr) : List Byte := bytesOfWord (encode i)

/-! ## The opcode table as masks and patterns (R49) -/

/-- One row of the table: it is selected when `raw & mask = pattern`. `care` holds the bits of the word that the row
reads at all, as fixed bits or as a field: the others are the `-` of its encoding (R50, R51). -/
structure OpcodeRow where
  /-- the number of the row in R49 -/
  row : Nat
  mask : Word
  pattern : Word
  care : Word
  deriving DecidableEq, Repr

/-- The row of an instruction, columns `mask` and `match` of R49. -/
def Instr.opcodeRow : Instr → OpcodeRow
  | .sys _ => ⟨1, 0xF000#16, 0x0000#16, 0xFFFF#16⟩
  | .cls => ⟨2, 0xF0FF#16, 0x00E0#16, 0xF0FF#16⟩
  | .ret => ⟨3, 0xF0FF#16, 0x00EE#16, 0xF0FF#16⟩
  | .jp _ => ⟨4, 0xF000#16, 0x1000#16, 0xFFFF#16⟩
  | .call _ => ⟨5, 0xF000#16, 0x2000#16, 0xFFFF#16⟩
  | .seByte _ _ => ⟨6, 0xF000#16, 0x3000#16, 0xFFFF#16⟩
  | .sneByte _ _ => ⟨7, 0xF000#16, 0x4000#16, 0xFFFF#16⟩
  | .seReg _ _ => ⟨8, 0xF000#16, 0x5000#16, 0xFFF0#16⟩
  | .ldByte _ _ => ⟨9, 0xF000#16, 0x6000#16, 0xFFFF#16⟩
  | .addByte _ _ => ⟨10, 0xF000#16, 0x7000#16, 0xFFFF#16⟩
  | .ldReg _ _ => ⟨11, 0xF00F#16, 0x8000#16, 0xFFFF#16⟩
  | .orReg _ _ => ⟨12, 0xF00F#16, 0x8001#16, 0xFFFF#16⟩
  | .andReg _ _ => ⟨13, 0xF00F#16, 0x8002#16, 0xFFFF#16⟩
  | .xorReg _ _ => ⟨14, 0xF00F#16, 0x8003#16, 0xFFFF#16⟩
  | .addReg _ _ => ⟨15, 0xF00F#16, 0x8004#16, 0xFFFF#16⟩
  | .subReg _ _ => ⟨16, 0xF00F#16, 0x8005#16, 0xFFFF#16⟩
  | .shr _ _ => ⟨17, 0xF00F#16, 0x8006#16, 0xFFFF#16⟩
  | .subnReg _ _ => ⟨18, 0xF00F#16, 0x8007#16, 0xFFFF#16⟩
  | .shl _ _ => ⟨19, 0xF00F#16, 0x800E#16, 0xFFFF#16⟩
  | .sneReg _ _ => ⟨20, 0xF000#16, 0x9000#16, 0xFFF0#16⟩
  | .ldI _ => ⟨21, 0xF000#16, 0xA000#16, 0xFFFF#16⟩
  | .jpV0 _ => ⟨22, 0xF000#16, 0xB000#16, 0xFFFF#16⟩
  | .rnd _ _ => ⟨23, 0xF000#16, 0xC000#16, 0xFFFF#16⟩
  | .drw _ _ _ => ⟨24, 0xF000#16, 0xD000#16, 0xFFFF#16⟩
  | .skp _ => ⟨25, 0xF0FF#16, 0xE09E#16, 0xFFFF#16⟩
  | .sknp _ => ⟨26, 0xF0FF#16, 0xE0A1#16, 0xFFFF#16⟩
  | .ldVxDt _ => ⟨27, 0xF0FF#16, 0xF007#16, 0xFFFF#16⟩
  | .ldVxK _ => ⟨28, 0xF0FF#16, 0xF00A#16, 0xFFFF#16⟩
  | .ldDtVx _ => ⟨29, 0xF0FF#16, 0xF015#16, 0xFFFF#16⟩
  | .ldStVx _ => ⟨30, 0xF0FF#16, 0xF018#16, 0xFFFF#16⟩
  | .addI _ => ⟨31, 0xF0FF#16, 0xF01E#16, 0xFFFF#16⟩
  | .ldF _ => ⟨32, 0xF0FF#16, 0xF029#16, 0xFFFF#16⟩
  | .ldB _ => ⟨33, 0xF0FF#16, 0xF033#16, 0xFFFF#16⟩
  | .ldMemVx _ => ⟨34, 0xF0FF#16, 0xF055#16, 0xFFFF#16⟩
  | .ldVxMem _ => ⟨35, 0xF0FF#16, 0xF065#16, 0xFFFF#16⟩

/-! ## The host's entry point -/

/-- The instruction the decoder reads from an instruction whose bits are `w` (bit 0 the least significant of the one
16-bit word), laid out big-endian as memory holds it (R34). Bits from `nbits` up are 0. -/
def decodeTableWord (nbits w : Nat) : Option Instr :=
  match decodeBytes (bytesOfWord (BitVec.ofNat 16 (w % 2 ^ nbits))) with
  | .ok (i, _) => some i
  | .error _ => none

end Sys2Proof
end

