-- ==== Sys2Proof/Machine/Fetch.lean ====
section
/-! DEFINITION. The fetch of an instruction's two bytes (spec/20_memory.md R34, spec/30_encoding.md R57), and the placing of
a word where the fetch will read it. -/

namespace Sys2Proof.Machine

/-- The big-endian word at `PC` and `PC`+1, whatever the parity of `PC`; `none` when the second byte would be above 0xFFF,
that is when `PC` > 0xFFE (R32, R34, R36). -/
def fetchWord (s : State) : Option Word :=
  if s.pc.toNat + 1 < Config.memSize then
    some (wordOfBytes (s.mem.read s.pc.toNat) (s.mem.read (s.pc.toNat + 1)))
  else none

/-- What an engine step does with a word that no row of the table matches: nothing beyond the fetch's advance (R52). -/
def execUnmatched (s : State) : Host.Outcome State Fault Refusal := .next s

/-- The step of an engine whose latch holds a cause: there is none (R112). -/
def haltedStep (cause : FaultCause) : Host.Outcome State Fault Refusal := .fault (.halted cause)

/-- A word stored big-endian at `PC` and `PC`+1, where those bytes exist (R34). -/
def placeAtPc (s : State) (raw : Word) : State :=
  if s.pc.toNat + 1 < Config.memSize then s.setMem (s.mem.writeBlock s.pc.toNat (bytesOfWord raw)) else s

end Sys2Proof.Machine
end

