-- ==== Sys2Proof/Machine/Step.lean ====
section
/-! DEFINITION. One engine step (spec/30_encoding.md R57). -/

namespace Sys2Proof.Machine

/-- One engine step (R57): no step while a fault is latched (R112); a `PC` above 0xFFE faults before any decode (R113);
else the fetch advances `PC` and the word's handler runs once, or nothing does (R52). -/
def step (s : State) : Host.Outcome State Fault Refusal :=
  match s.latch with
  | some cause => haltedStep cause
  | none =>
    match fetchWord s with
    | none => takeFault .fetchOutOfRange s
    | some raw =>
      match decodeWord raw with
      | .ok i => exec i s.advance
      | .error _ => execUnmatched s.advance

/-- The state with an instruction's word stored where the next step fetches (bits from `nbits` up are 0). It stands for
LoadProgram, through which a program comes to run (R132; log entry 8). -/
def State.withFetchWord (s : State) (nbits w : Nat) : State := placeAtPc s (BitVec.ofNat 16 (w % 2 ^ nbits))

end Sys2Proof.Machine
end

