-- ==== Sys2Proof/Machine/HostEvents.lean ====
section
/-! DEFINITION. What the host does to the state between engine steps (spec/00_scope.md R5; spec/60_exceptions.md R120 to
R124; spec/70_reset_and_hazards.md R130 to R133). -/

namespace Sys2Proof.Machine

/-- The host events that change the state. -/
inductive HostEvent where
  /-- R130 -/
  | reset
  /-- R131; the default font is `Config.defaultFont` -/
  | loadFont (font : Vector Byte 80)
  /-- R132 -/
  | loadProgram (image : List Byte)
  /-- R120 -/
  | timerTick
  /-- R121 -/
  | setKeys (keys : KeyVector)
  /-- R122 -/
  | ackDisplay
  deriving DecidableEq, Repr

/-- Reset: every element of the spec at its reset value (R28, R130). The model's own draw counter goes on, so that draws
before and after a Reset stay unrelated (R81). DESIGN CHOICE, safe: log entry 2. -/
def hostReset (s : State) : State := State.reset.setDraws s.draws

/-- LoadFont: the 80 bytes from 0x050 up (R131). -/
def hostLoadFont (font : Vector Byte 80) (s : State) : State :=
  s.setMem (s.mem.writeBlock Config.fontBase font.toList)

/-- LoadProgram: the image from 0x200 up, unmodified (R132). -/
def hostLoadProgram (image : List Byte) (s : State) : State :=
  s.setMem (s.mem.writeBlock Config.progBase image)

/-- One count down, stopping at zero (R120). -/
def countDown (v : Byte) : Byte := if v = 0#8 then v else v - 1#8

/-- TimerTick: both timers count down (R120). -/
def hostTimerTick (s : State) : State :=
  (s.setDelayTimer (countDown s.delayTimer)).setSoundTimer (countDown s.soundTimer)

/-- SetKeys: the whole vector replaced (R121). -/
def hostSetKeys (keys : KeyVector) (s : State) : State := s.setKeys keys

/-- AckDisplay: UD cleared (R122). -/
def hostAckDisplay (s : State) : State := s.setDirty false

/-- A host event. An image above 3583 bytes is refused (R132, U6; log entry 9). -/
def hostEvent (e : HostEvent) (s : State) : Host.Outcome State Fault Refusal :=
  match e with
  | .reset => .next (hostReset s)
  | .loadFont font => .next (hostLoadFont font s)
  | .loadProgram image =>
    if image.length ≤ Config.progMax then .next (hostLoadProgram image s) else .refused (.imageTooLarge image.length)
  | .timerTick => .next (hostTimerTick s)
  | .setKeys keys => .next (hostSetKeys keys s)
  | .ackDisplay => .next (hostAckDisplay s)

/-- What the host reads between steps, with no side effect: every element of the table of R29 (R123, R124, R126). -/
structure HostView where
  /-- `V`, for observation only -/
  regs : Vector Byte 16
  /-- `I`, for observation only -/
  index : Word
  /-- `PC`, for observation only -/
  pc : Word
  /-- `SP`, for observation only -/
  sp : Byte
  /-- `STACK`, for observation only -/
  stack : Vector Word 16
  /-- `DT` (R124) -/
  delayTimer : Byte
  /-- `ST` (R124) -/
  soundTimer : Byte
  /-- `KEYS` -/
  keys : KeyVector
  /-- `VIDEO` (R123) -/
  video : Video
  /-- `UD` (R123) -/
  dirty : Bool
  /-- `MEM`, for observation only -/
  mem : Memory
  /-- `FAULT` -/
  latch : Option FaultCause
  deriving DecidableEq, Repr

/-- The host's reading of a state: all of it but the model's own draw counter (R29, R126). -/
def hostView (s : State) : HostView where
  regs := s.regs
  index := s.index
  pc := s.pc
  sp := s.sp
  stack := s.stack
  delayTimer := s.delayTimer
  soundTimer := s.soundTimer
  keys := s.keys
  video := s.video
  dirty := s.dirty
  mem := s.mem
  latch := s.latch

end Sys2Proof.Machine
end

