-- ==== Sys2Proof/Machine/System.lean ====
section
/-! DEFINITION. The engine and the host together: a run is a list of actions, host events landing between engine steps in
any number and order (spec/00_scope.md R5, R6). A claim about a run takes the list as an input or holds for every list. -/

namespace Sys2Proof.Machine

/-- One thing that happens: a request for an engine step, or a host event. -/
inductive Action where
  | engine
  | host (e : HostEvent)
  deriving DecidableEq, Repr

/-- A request for an engine step: it changes nothing while a fault is latched (R112). -/
def engineRequest (s : State) : Host.Outcome State Fault Refusal :=
  match s.latch with
  | some _ => .next s
  | none => step s

/-- The effect of one action (R5). -/
def act (a : Action) (s : State) : Host.Outcome State Fault Refusal :=
  match a with
  | .engine => engineRequest s
  | .host e => hostEvent e s

/-- The effect of a list of actions, stopping where one has no next state. -/
def runActions : List Action → State → Host.Outcome State Fault Refusal
  | [], s => .next s
  | a :: as, s =>
    match act a s with
    | .next t => runActions as t
    | .fault r => .fault r
    | .refused r => .refused r

/-- The host's actions before the first engine step, in their order (R133). -/
def bootActions (font : Vector Byte 80) (image : List Byte) : List Action :=
  [.host .reset, .host (.loadFont font), .host (.loadProgram image)]

end Sys2Proof.Machine
end

