-- ==== Sys2Proof/Safety.lean ====
section
/-! DEFINITION. The terms in which claims about the machine are stated: the elements of the state and frames over them, the
fault a step is due, the invariant of every run, the reachable states, and safe runs. -/

namespace Sys2Proof.Machine

/-! ## Frames -/

/-- The elements of the state, one name for each register, entry, cell and byte (R29). -/
inductive Elem where
  | v (r : Reg)
  | index
  | pc
  | sp
  | stack (i : Fin 16)
  | delayTimer
  | soundTimer
  | key (i : Fin 16)
  | cell (c : CellIdx)
  | dirty
  | mem (addr : Nat)
  | latch
  | draws
  deriving DecidableEq, Repr

/-- Two states agree on an element; a byte of memory is compared as it is read. -/
def SameAt (s t : State) : Elem → Prop
  | .v r => t.reg r = s.reg r
  | .index => t.index = s.index
  | .pc => t.pc = s.pc
  | .sp => t.sp = s.sp
  | .stack i => t.stack[i] = s.stack[i]
  | .delayTimer => t.delayTimer = s.delayTimer
  | .soundTimer => t.soundTimer = s.soundTimer
  | .key i => t.keys[i] = s.keys[i]
  | .cell c => t.video[c] = s.video[c]
  | .dirty => t.dirty = s.dirty
  | .mem a => t.mem.read a = s.mem.read a
  | .latch => t.latch = s.latch
  | .draws => t.draws = s.draws

/-- The frame: every element not in the set `w` is as it was. -/
def ChangesOnly (w : Elem → Prop) (s t : State) : Prop := ∀ e, ¬ w e → SameAt s t e

/-! ## Faults -/

/-- The table of R110 for an instruction: the cause it is due in a state. The 27 instructions of the last arms are due none. -/
def dueOf (i : Instr) (s : State) : Option FaultCause :=
  match i with
  | .drw _ _ n => if n.val > 0 ∧ s.index.toNat + n.val - 1 > 0xFFF then some .dataOutOfRange else none
  | .ldB _ => if s.index.toNat + 2 > 0xFFF then some .dataOutOfRange else none
  | .ldMemVx x => if s.index.toNat + x.val > 0xFFF then some .dataOutOfRange else none
  | .ldVxMem x => if s.index.toNat + x.val > 0xFFF then some .dataOutOfRange else none
  | .call _ => if s.sp.toNat ≥ 16 then some .stackOverflow else none
  | .ret => if s.sp.toNat = 0 then some .stackUnderflow else none
  | .skp x => if (s.reg x).toNat > 15 then some .keyIndexOutOfRange else none
  | .sknp x => if (s.reg x).toNat > 15 then some .keyIndexOutOfRange else none
  | .sys _ => none
  | .cls => none
  | .jp _ => none
  | .seByte _ _ => none
  | .sneByte _ _ => none
  | .seReg _ _ => none
  | .ldByte _ _ => none
  | .addByte _ _ => none
  | .ldReg _ _ => none
  | .orReg _ _ => none
  | .andReg _ _ => none
  | .xorReg _ _ => none
  | .addReg _ _ => none
  | .subReg _ _ => none
  | .shr _ _ => none
  | .subnReg _ _ => none
  | .shl _ _ => none
  | .sneReg _ _ => none
  | .ldI _ => none
  | .jpV0 _ => none
  | .rnd _ _ => none
  | .ldVxDt _ => none
  | .ldVxK _ => none
  | .ldDtVx _ => none
  | .ldStVx _ => none
  | .addI _ => none
  | .ldF _ => none

/-- The table of R110 for a whole step: the cause due in a state, tested on the state before the step. -/
def dueFault (s : State) : Option FaultCause :=
  if s.pc.toNat > 0xFFE then some .fetchOutOfRange
  else
    match decodeWord (s.mem.read s.pc.toNat ++ s.mem.read (s.pc.toNat + 1)) with
    | .ok i => dueOf i s
    | .error _ => none

/-! ## Sprites -/

/-- The sprite of `DRW Vx, Vy, n` has a 1 bit on pixel (px, py): bit 7 - col of the row byte at `I` + row, with both
coordinates taken modulo the screen size (R93, R95; edge policy WRAP, decision D7). -/
def SpriteCovers (s : State) (x y : Reg) (n : Fin 16) (px py : Nat) : Prop :=
  ∃ row col : Nat, row < n.val ∧ col < 8 ∧ (s.mem.read (s.index.toNat + row)).getLsbD (7 - col) = true ∧
    px = ((s.reg x).toNat % 64 + col) % 64 ∧ py = ((s.reg y).toNat % 32 + row) % 32

/-- The cell of pixel (px, py): `VIDEO[py * 64 + px]` (R94). -/
def Lit (s : State) (px py : Nat) : Prop := s.video[py * 64 + px]? = some true

/-! ## Destinations -/

/-- The registers an instruction names as destination (41_alu.md, 42_index_memory.md, 44_keys_timers.md). -/
def namesDestination (i : Instr) (r : Reg) : Prop :=
  match i with
  | .ldByte x _ => r = x
  | .addByte x _ => r = x
  | .ldReg x _ => r = x
  | .orReg x _ => r = x
  | .andReg x _ => r = x
  | .xorReg x _ => r = x
  | .addReg x _ => r = x
  | .subReg x _ => r = x
  | .shr x _ => r = x
  | .subnReg x _ => r = x
  | .shl x _ => r = x
  | .rnd x _ => r = x
  | .ldVxDt x => r = x
  | .ldVxK x => r = x
  | .ldVxMem x => r ≤ x
  | _ => False

/-- The six instructions that write VF as a side effect (R11). -/
def writesFlag (i : Instr) : Prop :=
  match i with
  | .addReg _ _ => True
  | .subReg _ _ => True
  | .shr _ _ => True
  | .subnReg _ _ => True
  | .shl _ _ => True
  | .drw _ _ _ => True
  | _ => False

/-- The eleven instructions that write `PC` beyond the fetch's advance: the six skips, JP, CALL, JP V0, RET and the key wait
(R13). -/
def writesPc (i : Instr) : Prop :=
  match i with
  | .seByte _ _ => True
  | .sneByte _ _ => True
  | .seReg _ _ => True
  | .sneReg _ _ => True
  | .skp _ => True
  | .sknp _ => True
  | .jp _ => True
  | .call _ => True
  | .jpV0 _ => True
  | .ret => True
  | .ldVxK _ => True
  | _ => False

/-- The eight instructions that have a row in the table of R110. -/
def mayRaise (i : Instr) : Prop :=
  match i with
  | .drw _ _ _ => True
  | .ldB _ => True
  | .ldMemVx _ => True
  | .ldVxMem _ => True
  | .call _ => True
  | .ret => True
  | .skp _ => True
  | .sknp _ => True
  | _ => False

/-! ## Stored bytes -/

/-- The byte at an address after `LD [I], Vx`: register a - `I` from `I` to `I` + x, the old byte elsewhere (R89). -/
def byteAfterBlockStore (x : Reg) (s : State) (a : Nat) : Byte :=
  if s.index.toNat ≤ a ∧ a ≤ s.index.toNat + x.val then s.reg (Fin.ofNat 16 (a - s.index.toNat)) else s.mem.read a

/-- The byte at an address after `LD B, Vx`: a digit from `I` to `I` + 2, the old byte elsewhere (R88). -/
def byteAfterBcd (x : Reg) (s : State) (a : Nat) : Byte :=
  if a = s.index.toNat then BitVec.ofNat 8 ((s.reg x).toNat / 100)
  else if a = s.index.toNat + 1 then BitVec.ofNat 8 ((s.reg x).toNat / 10 % 10)
  else if a = s.index.toNat + 2 then BitVec.ofNat 8 ((s.reg x).toNat % 10)
  else s.mem.read a

/-! ## The invariant of every run -/

/-- What holds of every state a run reaches: memory is in its canonical form, `SP` is a depth of the stack (R14), each
return address held is one CALL can have pushed (R61), and `PC` is one that a fetch, a jump, a skip or a return leaves
(R13, R68). -/
structure RunInvariant (s : State) : Prop where
  memory : s.mem.wf = true
  depth : s.sp.toNat ≤ 16
  returns : ∀ i : Fin 16, i.val < s.sp.toNat → s.stack[i].toNat ≤ 0x1000
  counter : s.pc.toNat ≤ 0x10FE

/-- The states a run reaches from the reset state under any interleaving of the engine and the host (R5). -/
inductive Reachable : State → Prop where
  | reset : Reachable State.reset
  | act {s t : State} {a : Action} : Reachable s → act a s = .next t → Reachable t

/-! ## Safe runs -/

/-- No fault is latched: a faulted state is never a normal end of a run (R112, R138). -/
def NotFaulted (s : State) : Prop := s.latch = none

/-- A list of actions runs to a state with no fault latched. -/
def RunsSafely (as : List Action) (s : State) : Prop := ∃ t, runActions as s = .next t ∧ NotFaulted t

end Sys2Proof.Machine
end

