-- ==== Sys2Proof/Certificates/Slice0/Obligations.lean ====
section
/-! DEFINITION. The statements for the provers, from the numbered rules of spec/. A handler's state has `PC` at the next
instruction (R57), so a raised fault's state is given with `PC` two lower (R111). -/

open Sys2Proof Sys2Proof.Machine

/-! ## Encoding and decoding (30_encoding.md) -/

/-- Every well-formed instruction, with every operand, is what its canonical word and its bytes decode to, whatever
bytes follow. -/
def Obligations.DecodeOfEncodeIsTheInstruction : Prop :=
  ∀ i : Instr, i.wellFormed = true →
    decodeWord (encode i) = .ok i ∧ ∀ rest, decodeBytes (encodeBytes i ++ rest) = .ok (i, rest)

/-- What a word decodes to is well formed, and the word is its canonical word but for the bits its row ignores (the
aliases of R51, which the spec marks as derived). -/
def Obligations.DecodedWordIsItsEncodingButForIgnoredBits : Prop :=
  ∀ (raw : Word) (i : Instr), decodeWord raw = .ok i →
    i.wellFormed = true ∧ encode i = raw &&& i.opcodeRow.care

/-- R49: a row is selected exactly by the words its mask and match select, SYS only where CLS and RET are not. -/
def Obligations.RowIsSelectedByItsMaskAndMatch : Prop :=
  ∀ (raw : Word) (j : Instr),
    (∃ i, decodeWord raw = .ok i ∧ i.opcodeRow = j.opcodeRow) ↔
      (raw &&& j.opcodeRow.mask = j.opcodeRow.pattern ∧
        (j.opcodeRow.row = 1 → raw.toNat % 256 ≠ 0xE0 ∧ raw.toNat % 256 ≠ 0xEE))

/-- R48, in numbers: families 0, E and F keep top nibble and low byte, family 8 top and lowest nibble, the others the
top nibble alone. The key alone selects: words with one key select one row, or none. -/
def Obligations.DispatchKeyKeepsTheNibblesOfItsFamily : Prop :=
  (∀ raw raw' : Word, dispatchKey raw = dispatchKey raw' →
    (∃ i i', decodeWord raw = .ok i ∧ decodeWord raw' = .ok i' ∧ i.opcodeRow = i'.opcodeRow) ∨
      (decodeWord raw = .error (.unmatched raw) ∧ decodeWord raw' = .error (.unmatched raw'))) ∧
  ∀ raw : Word,
    ((raw.toNat / 4096 = 0x0 ∨ raw.toNat / 4096 = 0xE ∨ raw.toNat / 4096 = 0xF) →
      (dispatchKey raw).toNat = raw.toNat / 4096 * 4096 + raw.toNat % 256) ∧
    (raw.toNat / 4096 = 0x8 → (dispatchKey raw).toNat = 0x8000 + raw.toNat % 16) ∧
    (raw.toNat / 4096 ≠ 0x0 → raw.toNat / 4096 ≠ 0x8 → raw.toNat / 4096 ≠ 0xE → raw.toNat / 4096 ≠ 0xF →
      (dispatchKey raw).toNat = raw.toNat / 4096 * 4096)

/-- The words with no instruction are the list of R52 (the spec marks the list as derived): family 8 with low nibble 8 to D
or F, family E with a low byte other than 9E and A1, family F with one other than the nine of rows 27 to 35. -/
def Obligations.UnmatchedWordsAreTheListed : Prop :=
  ∀ raw : Word, decodeWord raw = .error (.unmatched raw) ↔
    (raw.toNat / 4096 = 0x8 ∧ raw.toNat % 16 ∈ [8, 9, 10, 11, 12, 13, 15]) ∨
    (raw.toNat / 4096 = 0xE ∧ raw.toNat % 256 ∉ [0x9E, 0xA1]) ∨
    (raw.toNat / 4096 = 0xF ∧ raw.toNat % 256 ∉ [0x07, 0x0A, 0x15, 0x18, 0x1E, 0x29, 0x33, 0x55, 0x65])

/-- Words written out from the encodings of R49, one or more a family, with the aliases of R51. -/
def Obligations.SampleWordsDecodeAsTheTableSays : Prop :=
  decodeWord 0b0000000000000000#16 = .ok (.sys 0) ∧
  decodeWord 0b0000101011100000#16 = .ok .cls ∧
  decodeWord 0b0000011111101110#16 = .ok .ret ∧
  decodeWord 0b0010001100000000#16 = .ok (.call 0x300) ∧
  decodeWord 0b0101000100100001#16 = .ok (.seReg 1 2) ∧
  decodeWord 0b0111000111111111#16 = .ok (.addByte 1 0xFF) ∧
  decodeWord 0b1000000000010101#16 = .ok (.subReg 0 1) ∧
  decodeWord 0b1000000000010111#16 = .ok (.subnReg 0 1) ∧
  decodeWord 0b1010001100000000#16 = .ok (.ldI 0x300) ∧
  decodeWord 0b1101000000010101#16 = .ok (.drw 0 1 5) ∧
  decodeWord 0b1110000110011110#16 = .ok (.skp 1) ∧
  decodeWord 0b1111000100001010#16 = .ok (.ldVxK 1) ∧
  decodeWord 0b1111001001010101#16 = .ok (.ldMemVx 2) ∧
  decodeWord 0b1000000100101000#16 = .error (.unmatched 0x8128)

/-! ## The engine step (30_encoding.md R57, 60_exceptions.md) -/

/-- An engine step is exec of the instruction that the big-endian word at `PC` decodes to, in the state with `PC` two
further. -/
def Obligations.StepRunsTheDecodedInstruction : Prop :=
  ∀ (s : State) (i : Instr), s.latch = none → s.pc.toNat ≤ 0xFFE →
    decodeWord (s.mem.read s.pc.toNat ++ s.mem.read (s.pc.toNat + 1)) = .ok i →
      step s = exec i (s.setPc (s.pc + 2#16))

/-- R52: a word that no entry matches changes nothing beyond the fetch's advance. -/
def Obligations.UnmatchedWordOnlyAdvancesPc : Prop :=
  ∀ (s : State) (r : Reject), s.latch = none → s.pc.toNat ≤ 0xFFE →
    decodeWord (s.mem.read s.pc.toNat ++ s.mem.read (s.pc.toNat + 1)) = .error r →
      step s = .next (s.setPc (s.pc + 2#16))

/-- R110: with no fault latched, a step latches a cause exactly when, and the one that, the table gives for the state before
the step, and where the table gives none it has a next state, `SP` at most 16 (which the run invariant keeps); the codes
are 1 to 5. -/
def Obligations.FaultsAreRaisedExactlyAsTabled : Prop :=
  (∀ (s : State) (c : FaultCause), s.latch = none → dueFault s = some c → ∃ t, step s = .next t ∧ t.latch = some c) ∧
  (∀ s t : State, s.latch = none → dueFault s = none → step s = .next t → t.latch = none) ∧
  (∀ s : State, s.latch = none → dueFault s = none → s.sp.toNat ≤ 16 → ∃ t, step s = .next t) ∧
  [FaultCause.fetchOutOfRange, .dataOutOfRange, .stackOverflow, .stackUnderflow, .keyIndexOutOfRange].map
    FaultCause.code = [1, 2, 3, 4, 5]

/-- R111: a step that latches a cause changes nothing else, `PC` included. -/
def Obligations.FaultingStepChangesOnlyTheLatch : Prop :=
  ∀ s t : State, step s = .next t → t.latch ≠ none → s.latch = none ∧ t = s.setLatch t.latch

/-- R112: a halted engine has no step, a request for one changes nothing, the host events other than Reset leave the latch,
TimerTick, SetKeys and AckDisplay act on the rest of the state as without a fault, and Reset clears the latch. -/
def Obligations.HaltedUntilReset : Prop :=
  ∀ (s : State) (c : FaultCause), s.latch = some c →
    step s = .fault (.halted c) ∧ act .engine s = .next s ∧
    (∀ (e : HostEvent) (t : State), e ≠ .reset → hostEvent e s = .next t → t.latch = some c) ∧
    (∀ e : HostEvent, e = .timerTick ∨ (∃ k, e = .setKeys k) ∨ e = .ackDisplay →
      ∃ t, hostEvent e (s.setLatch none) = .next t ∧ hostEvent e s = .next (t.setLatch (some c))) ∧
    ∃ t, hostEvent .reset s = .next t ∧ t.latch = none

/-- Whatever a host does short of Reset, a run from a faulted state stays faulted, so no such run is a safe one (R112,
R138). -/
def Obligations.NoSafeRunLeavesAFaultWithoutReset : Prop :=
  ∀ (as : List Action) (s : State), s.latch ≠ none → Action.host .reset ∉ as →
    (∀ t, runActions as s = .next t → t.latch = s.latch) ∧ ¬ RunsSafely as s

/-! ## The invariant of every run (10_state.md R13, R14; 40_flow.md R61) -/

/-- Every engine step keeps the run invariant. Its bounds on return addresses and `PC` are what the spec derives. -/
def Obligations.StepKeepsRunInvariant : Prop :=
  ∀ s t : State, RunInvariant s → step s = .next t → RunInvariant t

/-- The reset state meets the run invariant. -/
def Obligations.ResetMeetsRunInvariant : Prop := RunInvariant State.reset

/-- Every host event keeps the run invariant. -/
def Obligations.HostEventsKeepRunInvariant : Prop :=
  ∀ (e : HostEvent) (s t : State), RunInvariant s → hostEvent e s = .next t → RunInvariant t

/-- In every state reached under any interleaving of engine and host the invariant holds, and the engine has a step unless
a fault is latched: the model never stops a run of its own (log entry 6). -/
def Obligations.ReachableStatesMeetInvariantAndStep : Prop :=
  ∀ s : State, Reachable s → RunInvariant s ∧ (s.latch = none → ∃ t, step s = .next t)

/-- Memories in canonical form that read alike at every address are the same list: equal memories are equal data (log
entry 4). -/
def Obligations.CanonicalMemoriesThatReadAlikeAreEqual : Prop :=
  ∀ m m' : Memory, m.wf = true → m'.wf = true → (∀ a, m.read a = m'.read a) → m = m'

/-! ## Reset and the host (60_exceptions.md, 70_reset_and_hazards.md) -/

/-- R28, R130: the state after Reset, from whatever state, and the state the machine starts in. -/
def Obligations.ResetLeavesTheTabledValues : Prop :=
  ∀ s : State, ∃ t, hostEvent .reset s = .next t ∧ ∀ u : State, (u = t ∨ u = State.reset) →
    u.pc = 0x0200#16 ∧ (∀ r, u.reg r = 0#8) ∧ u.index = 0#16 ∧ u.sp = 0#8 ∧ (∀ i : Fin 16, u.stack[i] = 0#16) ∧
    u.delayTimer = 0#8 ∧ u.soundTimer = 0#8 ∧ (∀ i : Fin 16, u.keys[i] = false) ∧
    (∀ c : CellIdx, u.video[c] = false) ∧ u.dirty = false ∧ (∀ a, u.mem.read a = 0#8) ∧ u.latch = none

/-- R120: both timers go down by one and stop at zero; nothing else changes. -/
def Obligations.TimerTickCountsBothTimersDown : Prop :=
  ∀ s : State, ∃ t, hostEvent .timerTick s = .next t ∧
    t.delayTimer.toNat = s.delayTimer.toNat - 1 ∧ t.soundTimer.toNat = s.soundTimer.toNat - 1 ∧
    ChangesOnly (fun e => e = .delayTimer ∨ e = .soundTimer) s t

/-- After n ticks with no engine step between them each timer is n lower, or zero. -/
def Obligations.TicksCountDownToZero : Prop :=
  ∀ (n : Nat) (s : State), ∃ t, runActions (List.replicate n (.host .timerTick)) s = .next t ∧
    t.delayTimer.toNat = s.delayTimer.toNat - n ∧ t.soundTimer.toNat = s.soundTimer.toNat - n ∧
    ChangesOnly (fun e => e = .delayTimer ∨ e = .soundTimer) s t

/-- R121 and R122: SetKeys replaces the whole key vector and AckDisplay clears UD, and each does nothing else. -/
def Obligations.SetKeysAndAckDisplayWriteOneElement : Prop :=
  (∀ (s : State) (k : KeyVector), ∃ t, hostEvent (.setKeys k) s = .next t ∧ t.keys = k ∧
    ChangesOnly (fun e => ∃ i, e = .key i) s t) ∧
  (∀ s : State, ∃ t, hostEvent .ackDisplay s = .next t ∧ t.dirty = false ∧ ChangesOnly (fun e => e = .dirty) s t)

/-- LoadFont puts byte k of the font at 0x050 + k and changes nothing else. -/
def Obligations.LoadFontFillsTheFontArea : Prop :=
  ∀ (s : State) (font : Vector Byte 80), ∃ t, hostEvent (.loadFont font) s = .next t ∧
    (∀ k : Fin 80, t.mem.read (0x050 + k.val) = font[k]) ∧
    ChangesOnly (fun e => ∃ k : Fin 80, e = .mem (0x050 + k.val)) s t

/-- R132: LoadProgram puts byte k of an image of at most 3583 bytes (the rule's premise) at 0x200 + k, at most 0xFFE, and
changes nothing else. -/
def Obligations.LoadProgramFillsFromTheProgramBase : Prop :=
  ∀ (s : State) (image : List Byte), image.length ≤ 3583 → ∃ t, hostEvent (.loadProgram image) s = .next t ∧
    (∀ (k : Nat) (h : k < image.length), 0x200 + k ≤ 0xFFE ∧ t.mem.read (0x200 + k) = image[k]) ∧
    ChangesOnly (fun e => ∃ k, k < image.length ∧ e = .mem (0x200 + k)) s t

/-- The model's form of the loader's rejection (log entry 9): a longer image is refused, with its length. -/
def Obligations.OversizedImageIsRefused : Prop :=
  ∀ (s : State) (image : List Byte), image.length > 3583 →
    hostEvent (.loadProgram image) s = .refused (.imageTooLarge image.length)

/-- The order of LoadFont and LoadProgram does not matter (the spec marks this as derived): both orders end in states that
agree on every element. -/
def Obligations.FontAndProgramLoadInEitherOrder : Prop :=
  ∀ (s : State) (font : Vector Byte 80) (image : List Byte), image.length ≤ 3583 →
    ∃ t u, runActions [.host (.loadFont font), .host (.loadProgram image)] s = .next t ∧
      runActions [.host (.loadProgram image), .host (.loadFont font)] s = .next u ∧ ChangesOnly (fun _ => False) t u

/-! ## Control transfer (40_flow.md) -/

/-- R60: every word of family 0 but those of CLS and RET is SYS, and SYS does nothing. -/
def Obligations.SysDoesNothing : Prop :=
  (∀ nnn : BitVec 12, nnn.toNat % 256 ≠ 0xE0 → nnn.toNat % 256 ≠ 0xEE →
    decodeWord (formatA 0x0#4 nnn) = .ok (.sys nnn)) ∧
  ∀ (nnn : BitVec 12) (s : State), exec (.sys nnn) s = .next s

/-- R61: RET pops. At depth 1 to 16 it loads the top entry into `PC`, keeps the entry and goes one down; at depth 0 it
raises StackUnderflow. -/
def Obligations.ReturnPopsOrUnderflows : Prop :=
  (∀ x : Reg, decodeWord (formatX 0x0#4 x 0xEE#8) = .ok .ret) ∧
  (∀ (s : State) (i : Fin 16), s.sp.toNat = i.val + 1 → ∃ t, exec .ret s = .next t ∧
    t.pc = s.stack[i] ∧ t.sp.toNat = i.val ∧ ChangesOnly (fun e => e = .pc ∨ e = .sp) s t) ∧
  (∀ s : State, s.sp.toNat = 0 →
    exec .ret s = .next ((s.setPc (s.pc - 2#16)).setLatch (some .stackUnderflow)))

/-- The model's choice (log entry 6): RET at an `SP` above 16, where there is no entry to pop, stops the model. -/
def Obligations.ReturnAboveTheStackStops : Prop :=
  ∀ s : State, s.sp.toNat > 16 → exec .ret s = .fault (.noStackEntry s.sp)

/-- R62 and R68: JP loads its address; JP V0 loads its address plus `V[0]`, not reduced to 12 bits. -/
def Obligations.JumpsLoadPc : Prop :=
  ∀ (nnn : BitVec 12) (s : State),
    decodeWord (formatA 0x1#4 nnn) = .ok (.jp nnn) ∧ decodeWord (formatA 0xB#4 nnn) = .ok (.jpV0 nnn) ∧
    (∃ t, exec (.jp nnn) s = .next t ∧ t.pc.toNat = nnn.toNat ∧ ChangesOnly (fun e => e = .pc) s t) ∧
    (∃ t, exec (.jpV0 nnn) s = .next t ∧ t.pc.toNat = nnn.toNat + (s.reg 0).toNat ∧
      ChangesOnly (fun e => e = .pc) s t)

/-- R63: CALL below depth 16 pushes the address after it and jumps, and a RET right after comes back with `SP` as before;
at depth 16 or more it raises StackOverflow. -/
def Obligations.CallPushesAndReturnComesBack : Prop :=
  (∀ nnn : BitVec 12, decodeWord (formatA 0x2#4 nnn) = .ok (.call nnn)) ∧
  (∀ (nnn : BitVec 12) (s : State) (i : Fin 16), s.sp.toNat = i.val → ∃ t, exec (.call nnn) s = .next t ∧
    t.stack[i] = s.pc ∧ t.sp.toNat = i.val + 1 ∧ t.pc.toNat = nnn.toNat ∧
    ChangesOnly (fun e => e = .stack i ∨ e = .sp ∨ e = .pc) s t ∧
    ∀ pc, ∃ u, exec .ret (t.setPc pc) = .next u ∧ u.pc = s.pc ∧ u.sp = s.sp) ∧
  (∀ (nnn : BitVec 12) (s : State), s.sp.toNat ≥ 16 →
    exec (.call nnn) s = .next ((s.setPc (s.pc - 2#16)).setLatch (some .stackOverflow)))

/-- R64 to R67 and R69: the four register skips move `PC` two further exactly when their condition holds, and change nothing
else; the register forms ignore the low nibble of the word. -/
def Obligations.RegisterSkipsCompareAndSkip : Prop :=
  ∀ (x y : Reg) (kk : Byte) (low : BitVec 4) (s : State),
    decodeWord (formatXK 0x3#4 x kk) = .ok (.seByte x kk) ∧ decodeWord (formatXK 0x4#4 x kk) = .ok (.sneByte x kk) ∧
    decodeWord (formatXY 0x5#4 x y low) = .ok (.seReg x y) ∧ decodeWord (formatXY 0x9#4 x y low) = .ok (.sneReg x y) ∧
    (∃ t, exec (.seByte x kk) s = .next t ∧ t.pc = (if (s.reg x).toNat = kk.toNat then s.pc + 2#16 else s.pc) ∧
      ChangesOnly (fun e => e = .pc) s t) ∧
    (∃ t, exec (.sneByte x kk) s = .next t ∧ t.pc = (if (s.reg x).toNat = kk.toNat then s.pc else s.pc + 2#16) ∧
      ChangesOnly (fun e => e = .pc) s t) ∧
    (∃ t, exec (.seReg x y) s = .next t ∧
      t.pc = (if (s.reg x).toNat = (s.reg y).toNat then s.pc + 2#16 else s.pc) ∧ ChangesOnly (fun e => e = .pc) s t) ∧
    (∃ t, exec (.sneReg x y) s = .next t ∧
      t.pc = (if (s.reg x).toNat = (s.reg y).toNat then s.pc else s.pc + 2#16) ∧ ChangesOnly (fun e => e = .pc) s t)

/-! ## Registers and arithmetic (41_alu.md) -/

/-- R70 to R72: the loads and the add of a byte write their register and nothing else; ADD byte leaves VF alone. -/
def Obligations.ByteAndRegisterLoadsAndByteAdd : Prop :=
  ∀ (x y : Reg) (kk : Byte) (s : State),
    decodeWord (formatXK 0x6#4 x kk) = .ok (.ldByte x kk) ∧ decodeWord (formatXK 0x7#4 x kk) = .ok (.addByte x kk) ∧
    decodeWord (formatXY 0x8#4 x y 0x0#4) = .ok (.ldReg x y) ∧
    (∃ t, exec (.ldByte x kk) s = .next t ∧ t.reg x = kk ∧ ChangesOnly (fun e => e = .v x) s t) ∧
    (∃ t, exec (.addByte x kk) s = .next t ∧ (t.reg x).toNat = ((s.reg x).toNat + kk.toNat) % 256 ∧
      ChangesOnly (fun e => e = .v x) s t) ∧
    (∃ t, exec (.ldReg x y) s = .next t ∧ t.reg x = s.reg y ∧ ChangesOnly (fun e => e = .v x) s t)

/-- R73 to R75: OR, AND and XOR, bit by bit, write their register and nothing else; VF is not reset. -/
def Obligations.LogicIsBitwise : Prop :=
  ∀ (x y : Reg) (s : State),
    decodeWord (formatXY 0x8#4 x y 0x1#4) = .ok (.orReg x y) ∧ decodeWord (formatXY 0x8#4 x y 0x2#4) = .ok (.andReg x y) ∧
    decodeWord (formatXY 0x8#4 x y 0x3#4) = .ok (.xorReg x y) ∧
    (∃ t, exec (.orReg x y) s = .next t ∧
      (∀ i, (t.reg x).getLsbD i = ((s.reg x).getLsbD i || (s.reg y).getLsbD i)) ∧
      ChangesOnly (fun e => e = .v x) s t) ∧
    (∃ t, exec (.andReg x y) s = .next t ∧
      (∀ i, (t.reg x).getLsbD i = ((s.reg x).getLsbD i && (s.reg y).getLsbD i)) ∧
      ChangesOnly (fun e => e = .v x) s t) ∧
    (∃ t, exec (.xorReg x y) s = .next t ∧
      (∀ i, (t.reg x).getLsbD i = ((s.reg x).getLsbD i != (s.reg y).getLsbD i)) ∧
      ChangesOnly (fun e => e = .v x) s t)

/-- R76: ADD stores the sum modulo 256 with VF = 1 exactly on a carry; with x = 15 the sum stands (decision D10). -/
def Obligations.AddStoresTheSumAndTheCarry : Prop :=
  ∀ (x y : Reg) (s : State),
    decodeWord (formatXY 0x8#4 x y 0x4#4) = .ok (.addReg x y) ∧
    ∃ t, exec (.addReg x y) s = .next t ∧
      (t.reg x).toNat = ((s.reg x).toNat + (s.reg y).toNat) % 256 ∧
      (x ≠ 15 → (t.reg 15).toNat = if (s.reg x).toNat + (s.reg y).toNat > 255 then 1 else 0) ∧
      ChangesOnly (fun e => e = .v x ∨ e = .v 15) s t

/-- R77 and R79: SUB stores `vx - vy`, SUBN `vy - vx`, modulo 256, with VF = 1 exactly when no borrow is needed; with
x = 15 the difference stands (decision D10). -/
def Obligations.SubtractsStoreTheDifferenceAndNoBorrow : Prop :=
  ∀ (x y : Reg) (s : State),
    decodeWord (formatXY 0x8#4 x y 0x5#4) = .ok (.subReg x y) ∧ decodeWord (formatXY 0x8#4 x y 0x7#4) = .ok (.subnReg x y) ∧
    (∃ t, exec (.subReg x y) s = .next t ∧
      ((t.reg x).toNat : Int) = (((s.reg x).toNat : Int) - (s.reg y).toNat) % 256 ∧
      (x ≠ 15 → (t.reg 15).toNat = if (s.reg x).toNat ≥ (s.reg y).toNat then 1 else 0) ∧
      ChangesOnly (fun e => e = .v x ∨ e = .v 15) s t) ∧
    (∃ t, exec (.subnReg x y) s = .next t ∧
      ((t.reg x).toNat : Int) = (((s.reg y).toNat : Int) - (s.reg x).toNat) % 256 ∧
      (x ≠ 15 → (t.reg 15).toNat = if (s.reg y).toNat ≥ (s.reg x).toNat then 1 else 0) ∧
      ChangesOnly (fun e => e = .v x ∨ e = .v 15) s t)

/-- R78 and R80: SHR and SHL shift `V[x]` by one with VF = the bit lost, whatever y (decision D11); with x = 15 the shifted
value stands (decision D10). -/
def Obligations.ShiftsStoreTheValueAndTheLostBit : Prop :=
  ∀ (x y : Reg) (s : State),
    decodeWord (formatXY 0x8#4 x y 0x6#4) = .ok (.shr x y) ∧ decodeWord (formatXY 0x8#4 x y 0xE#4) = .ok (.shl x y) ∧
    (∃ t, exec (.shr x y) s = .next t ∧ (t.reg x).toNat = (s.reg x).toNat / 2 ∧
      (x ≠ 15 → (t.reg 15).toNat = (s.reg x).toNat % 2) ∧ ChangesOnly (fun e => e = .v x ∨ e = .v 15) s t) ∧
    (∃ t, exec (.shl x y) s = .next t ∧ (t.reg x).toNat = (s.reg x).toNat * 2 % 256 ∧
      (x ≠ 15 → (t.reg 15).toNat = (s.reg x).toNat / 128) ∧ ChangesOnly (fun e => e = .v x ∨ e = .v 15) s t)

/-- RND stores the random byte of this draw masked by kk, whatever byte that is, and counts the draw. The byte is the
model's free value (log entry 1). -/
def Obligations.RandomAndMasksTheDraw : Prop :=
  ∀ (x : Reg) (kk : Byte) (s : State),
    decodeWord (formatXK 0xC#4 x kk) = .ok (.rnd x kk) ∧
    (∃ t, exec (.rnd x kk) s = .next t ∧
      (∀ i, (t.reg x).getLsbD i = ((Config.randomByte s.draws).getLsbD i && kk.getLsbD i)) ∧
      t.draws = s.draws + 1 ∧ ChangesOnly (fun e => e = .v x ∨ e = .draws) s t) ∧
    ∀ r : Byte, ((randomAnd r x kk s).reg x) &&& ~~~ kk = 0#8

/-! ## The index register and memory (42_index_memory.md) -/

/-- R85 to R87: LD I, ADD I and LD F write `I` and nothing else; ADD I is modulo 2^16 and LD F uses the whole byte. -/
def Obligations.IndexInstructionsWriteOnlyTheIndex : Prop :=
  ∀ (nnn : BitVec 12) (x : Reg) (s : State),
    decodeWord (formatA 0xA#4 nnn) = .ok (.ldI nnn) ∧ decodeWord (formatX 0xF#4 x 0x1E#8) = .ok (.addI x) ∧
    decodeWord (formatX 0xF#4 x 0x29#8) = .ok (.ldF x) ∧
    (∃ t, exec (.ldI nnn) s = .next t ∧ t.index.toNat = nnn.toNat ∧ ChangesOnly (fun e => e = .index) s t) ∧
    (∃ t, exec (.addI x) s = .next t ∧ t.index.toNat = (s.index.toNat + (s.reg x).toNat) % 65536 ∧
      ChangesOnly (fun e => e = .index) s t) ∧
    (∃ t, exec (.ldF x) s = .next t ∧ t.index.toNat = 0x50 + 5 * (s.reg x).toNat ∧
      ChangesOnly (fun e => e = .index) s t)

/-- R88: LD B stores the three decimal digits at `I`, `I`+1, `I`+2 and changes nothing else; past 0xFFF it raises
DataOutOfRange. -/
def Obligations.BcdStoresThreeDigits : Prop :=
  ∀ (x : Reg) (s : State),
    decodeWord (formatX 0xF#4 x 0x33#8) = .ok (.ldB x) ∧
    (s.index.toNat + 2 ≤ 0xFFF → ∃ t, exec (.ldB x) s = .next t ∧
      (t.mem.read (effectiveAddr s 0)).toNat = (s.reg x).toNat / 100 ∧
      (t.mem.read (effectiveAddr s 1)).toNat = (s.reg x).toNat / 10 % 10 ∧
      (t.mem.read (effectiveAddr s 2)).toNat = (s.reg x).toNat % 10 ∧
      ChangesOnly (fun e => ∃ k, k < 3 ∧ e = .mem (effectiveAddr s k)) s t) ∧
    (s.index.toNat + 2 > 0xFFF →
      exec (.ldB x) s = .next ((s.setPc (s.pc - 2#16)).setLatch (some .dataOutOfRange)))

/-- R89: LD [I] stores exactly registers 0 to x at `I` and up and changes nothing else, `I` included (decision D12); past
0xFFF it raises DataOutOfRange. -/
def Obligations.BlockStoreCopiesTheRegisters : Prop :=
  ∀ (x : Reg) (s : State),
    decodeWord (formatX 0xF#4 x 0x55#8) = .ok (.ldMemVx x) ∧
    (s.index.toNat + x.val ≤ 0xFFF → ∃ t, exec (.ldMemVx x) s = .next t ∧
      (∀ i : Reg, i ≤ x → t.mem.read (effectiveAddr s i.val) = s.reg i) ∧
      ChangesOnly (fun e => ∃ k, k ≤ x.val ∧ e = .mem (effectiveAddr s k)) s t) ∧
    (s.index.toNat + x.val > 0xFFF →
      exec (.ldMemVx x) s = .next ((s.setPc (s.pc - 2#16)).setLatch (some .dataOutOfRange)))

/-- R90: LD Vx,[I] loads exactly registers 0 to x from `I` and up and changes nothing else, `I` included (decision D12);
past 0xFFF it raises DataOutOfRange. -/
def Obligations.BlockLoadCopiesTheBytes : Prop :=
  ∀ (x : Reg) (s : State),
    decodeWord (formatX 0xF#4 x 0x65#8) = .ok (.ldVxMem x) ∧
    (s.index.toNat + x.val ≤ 0xFFF → ∃ t, exec (.ldVxMem x) s = .next t ∧
      (∀ i : Reg, i ≤ x → t.reg i = s.mem.read (effectiveAddr s i.val)) ∧
      ChangesOnly (fun e => ∃ i, i ≤ x ∧ e = .v i) s t) ∧
    (s.index.toNat + x.val > 0xFFF →
      exec (.ldVxMem x) s = .next ((s.setPc (s.pc - 2#16)).setLatch (some .dataOutOfRange)))

/-- What LD [I],Vx or LD B,Vx stores is what any later fetch reads, first byte high, whether it covers both bytes of the word
fetched, one or none; `PC` is left at the next instruction, whose fetch is such a one: no fence is needed (R42, which the
spec marks as derived). -/
def Obligations.StoredCodeIsFetched : Prop :=
  ∀ (x : Reg) (s : State),
    (s.index.toNat + x.val ≤ 0xFFF → ∃ t, exec (.ldMemVx x) s = .next t ∧ t.pc = s.pc ∧
      ∀ p : Word, p.toNat ≤ 0xFFE → fetchWord (t.setPc p) =
        some (byteAfterBlockStore x s p.toNat ++ byteAfterBlockStore x s (p.toNat + 1))) ∧
    (s.index.toNat + 2 ≤ 0xFFF → ∃ t, exec (.ldB x) s = .next t ∧ t.pc = s.pc ∧
      ∀ p : Word, p.toNat ≤ 0xFFE → fetchWord (t.setPc p) =
        some (byteAfterBcd x s p.toNat ++ byteAfterBcd x s (p.toNat + 1)))

/-! ## The display (43_display.md) -/

/-- R92: CLS turns every cell off and sets UD, and changes nothing else; bits 11:8 of its word are ignored. -/
def Obligations.ClearScreenTurnsEveryCellOff : Prop :=
  (∀ x : Reg, decodeWord (formatX 0x0#4 x 0xE0#8) = .ok .cls) ∧
  ∀ s : State, ∃ t, exec .cls s = .next t ∧ (∀ c : CellIdx, t.video[c] = false) ∧ t.dirty = true ∧
    ChangesOnly (fun e => e = .dirty ∨ ∃ c, e = .cell c) s t

/-- R93, R94, R95: DRW inverts exactly the cells its sprite covers with 1 bits, sets VF to whether one of them was lit, sets
UD, and changes nothing else; a sprite whose last row is above 0xFFF raises DataOutOfRange. -/
def Obligations.DrawInvertsTheCoveredCells : Prop :=
  ∀ (x y : Reg) (n : Fin 16) (s : State),
    decodeWord (formatXY 0xD#4 x y (nibbleOf n)) = .ok (.drw x y n) ∧
    ((n.val = 0 ∨ s.index.toNat + (n.val - 1) ≤ 0xFFF) → ∃ t, exec (.drw x y n) s = .next t ∧
      (∀ px py, px < 64 → py < 32 →
        (Lit t px py ↔ (Lit s px py ∧ ¬ SpriteCovers s x y n px py) ∨ (¬ Lit s px py ∧ SpriteCovers s x y n px py))) ∧
      (t.reg 15 = 1#8 ∨ t.reg 15 = 0#8) ∧
      (t.reg 15 = 1#8 ↔ ∃ px py, SpriteCovers s x y n px py ∧ Lit s px py) ∧ t.dirty = true ∧
      ChangesOnly (fun e => e = .v 15 ∨ e = .dirty ∨ ∃ c, e = .cell c) s t) ∧
    (n.val ≠ 0 → s.index.toNat + (n.val - 1) > 0xFFF →
      exec (.drw x y n) s = .next ((s.setPc (s.pc - 2#16)).setLatch (some .dataOutOfRange)))

/-- The source's property of DRW: the same sprite drawn twice at the same place leaves the framebuffer as it was, and the
second draw reports a collision exactly where the first left a covered pixel lit. With x or y = 15 the second draw is at
another place, since the first writes VF. -/
def Obligations.DrawingTwiceRestoresTheFramebuffer : Prop :=
  ∀ (x y : Reg) (n : Fin 16) (s : State), x ≠ 15 → y ≠ 15 → (n.val = 0 ∨ s.index.toNat + (n.val - 1) ≤ 0xFFF) →
    ∃ t u, exec (.drw x y n) s = .next t ∧ exec (.drw x y n) t = .next u ∧ u.video = s.video ∧
      (u.reg 15 = 1#8 ↔ ∃ px py, SpriteCovers s x y n px py ∧ Lit t px py)

/-! ## Keys and timers (44_keys_timers.md) -/

/-- R96 and R97: SKP and SKNP look at the key the register's value names and skip when it is pressed, not pressed; above 15
they raise KeyIndexOutOfRange. -/
def Obligations.KeySkipsFollowTheNamedKey : Prop :=
  ∀ (x : Reg) (s : State),
    decodeWord (formatX 0xE#4 x 0x9E#8) = .ok (.skp x) ∧ decodeWord (formatX 0xE#4 x 0xA1#8) = .ok (.sknp x) ∧
    (∀ i : Fin 16, (s.reg x).toNat = i.val →
      (∃ t, exec (.skp x) s = .next t ∧ t.pc = (if s.keys[i] = true then s.pc + 2#16 else s.pc) ∧
        ChangesOnly (fun e => e = .pc) s t) ∧
      (∃ t, exec (.sknp x) s = .next t ∧ t.pc = (if s.keys[i] = true then s.pc else s.pc + 2#16) ∧
        ChangesOnly (fun e => e = .pc) s t)) ∧
    ((s.reg x).toNat > 15 →
      exec (.skp x) s = .next ((s.setPc (s.pc - 2#16)).setLatch (some .keyIndexOutOfRange)) ∧
      exec (.sknp x) s = .next ((s.setPc (s.pc - 2#16)).setLatch (some .keyIndexOutOfRange)))

/-- R98: LD Vx,K stores the least pressed key; with no key pressed it takes `PC` two back, so that the whole engine step
leaves the state as it was. -/
def Obligations.KeyWaitStoresTheLeastKeyOrRepeats : Prop :=
  (∀ x : Reg, decodeWord (formatX 0xF#4 x 0x0A#8) = .ok (.ldVxK x)) ∧
  (∀ (x : Reg) (s : State) (i : Fin 16), s.keys[i] = true → (∀ j : Fin 16, j < i → s.keys[j] = false) →
    ∃ t, exec (.ldVxK x) s = .next t ∧ (t.reg x).toNat = i.val ∧ ChangesOnly (fun e => e = .v x) s t) ∧
  (∀ (x : Reg) (s : State), (∀ i : Fin 16, s.keys[i] = false) →
    ∃ t, exec (.ldVxK x) s = .next t ∧ t.pc = s.pc - 2#16 ∧ ChangesOnly (fun e => e = .pc) s t) ∧
  (∀ (x : Reg) (s : State), (∀ i : Fin 16, s.keys[i] = false) → s.latch = none → s.pc.toNat ≤ 0xFFE →
    s.mem.read s.pc.toNat ++ s.mem.read (s.pc.toNat + 1) = formatX 0xF#4 x 0x0A#8 → step s = .next s)

/-- R99 to R101: the three timer moves. -/
def Obligations.TimerMovesCopyOneByte : Prop :=
  ∀ (x : Reg) (s : State),
    decodeWord (formatX 0xF#4 x 0x07#8) = .ok (.ldVxDt x) ∧ decodeWord (formatX 0xF#4 x 0x15#8) = .ok (.ldDtVx x) ∧
    decodeWord (formatX 0xF#4 x 0x18#8) = .ok (.ldStVx x) ∧
    (∃ t, exec (.ldVxDt x) s = .next t ∧ t.reg x = s.delayTimer ∧ ChangesOnly (fun e => e = .v x) s t) ∧
    (∃ t, exec (.ldDtVx x) s = .next t ∧ t.delayTimer = s.reg x ∧ ChangesOnly (fun e => e = .delayTimer) s t) ∧
    (∃ t, exec (.ldStVx x) s = .next t ∧ t.soundTimer = s.reg x ∧ ChangesOnly (fun e => e = .soundTimer) s t)

/-! ## Whole-machine rules (10_state.md) -/

/-- A register changes only under an instruction that names it as destination, VF also under one of the six that write it
as a flag. -/
def Obligations.RegistersChangeOnlyAsNamed : Prop :=
  ∀ (i : Instr) (s t : State) (r : Reg), exec i s = .next t → t.reg r ≠ s.reg r →
    namesDestination i r ∨ (r = 15 ∧ writesFlag i)

/-- Each element but V (RegistersChangeOnlyAsNamed says it of V) is written only by the instructions its rule gives it to: I
(R12), PC beyond the fetch's advance (R13), SP (R14), STACK (R15), DT, ST, VIDEO, MEM (R29), UD, which is only set, and
FAULT, written by `raise` alone (R22, R110), which also takes PC back; no instruction writes KEYS. The draw counter is the
model's own (log entry 1), advanced by RND alone. -/
def Obligations.EngineWritesOnlyWhatItOwns : Prop :=
  ∀ (i : Instr) (s t : State), exec i s = .next t →
    t.keys = s.keys ∧
    (t.index ≠ s.index → (∃ nnn, i = .ldI nnn) ∨ (∃ x, i = .addI x) ∨ ∃ x, i = .ldF x) ∧
    (t.pc ≠ s.pc → writesPc i ∨ (mayRaise i ∧ ∃ c, t = (s.setPc (s.pc - 2#16)).setLatch (some c))) ∧
    (t.latch ≠ s.latch → mayRaise i ∧ ∃ c, t = (s.setPc (s.pc - 2#16)).setLatch (some c)) ∧
    (t.sp ≠ s.sp → i = .ret ∨ ∃ nnn, i = .call nnn) ∧ (t.stack ≠ s.stack → ∃ nnn, i = .call nnn) ∧
    (t.delayTimer ≠ s.delayTimer → ∃ x, i = .ldDtVx x) ∧ (t.soundTimer ≠ s.soundTimer → ∃ x, i = .ldStVx x) ∧
    (t.video ≠ s.video → i = .cls ∨ ∃ x y n, i = .drw x y n) ∧
    (t.dirty ≠ s.dirty → t.dirty = true ∧ (i = .cls ∨ ∃ x y n, i = .drw x y n)) ∧
    (t.mem ≠ s.mem → (∃ x, i = .ldB x) ∨ ∃ x, i = .ldMemVx x) ∧
    (t.draws ≠ s.draws → t.draws = s.draws + 1 ∧ ∃ x kk, i = .rnd x kk)

/-- No instruction reads ST, UD or FAULT: run in two states that differ in one of them alone, every instruction that
completes in the one completes in the other, and the results differ in it at most. -/
def Obligations.NoInstructionReadsSoundTimerDirtyOrLatch : Prop :=
  ∀ (i : Instr) (s t : State), exec i s = .next t →
    (∀ v, ∃ u, exec i (s.setSoundTimer v) = .next u ∧ ChangesOnly (fun e => e = .soundTimer) t u) ∧
    (∀ b, ∃ u, exec i (s.setDirty b) = .next u ∧ ChangesOnly (fun e => e = .dirty) t u) ∧
    (∀ c, ∃ u, exec i (s.setLatch c) = .next u ∧ ChangesOnly (fun e => e = .latch) t u)

/-- A jump to its own address is a fixed point: the customary end of a program leaves the whole state as it is (the spec
marks this as derived). -/
def Obligations.JumpToSelfIsAFixedPoint : Prop :=
  ∀ (s : State) (nnn : BitVec 12), s.latch = none → s.pc.toNat ≤ 0xFFE → nnn.toNat = s.pc.toNat →
    s.mem.read s.pc.toNat ++ s.mem.read (s.pc.toNat + 1) = formatA 0x1#4 nnn → step s = .next s
end

