-- ==== Sys2Proof/Laws/Decode.lean ====
section
/-! SUPPORT. The laws of the fields, of the formats and of the dispatch key: bits of a format, a format's fields, and the key
of a word whose family is known. -/

namespace Sys2Proof

@[simp] theorem nibbleOf_toFin (r : Fin 16) : (nibbleOf r).toFin = r := rfl

@[simp] theorem nibbleOf_toNat (r : Fin 16) : (nibbleOf r).toNat = r.val := rfl

/-! ## Bits of a format (R50) -/

theorem formatA_getLsbD (f : BitVec 4) (nnn : BitVec 12) (i : Nat) :
    (formatA f nnn).getLsbD i = if i < 12 then nnn.getLsbD i else f.getLsbD (i - 12) :=
  BitVec.getLsbD_append (x := f) (y := nnn) (i := i)

theorem formatXK_getLsbD (f : BitVec 4) (x : Reg) (kk : Byte) (i : Nat) :
    (formatXK f x kk).getLsbD i =
      if i < 8 then kk.getLsbD i else if i < 12 then (nibbleOf x).getLsbD (i - 8) else f.getLsbD (i - 12) := by
  have h1 := BitVec.getLsbD_append (x := f ++ nibbleOf x) (y := kk) (i := i)
  have h2 := BitVec.getLsbD_append (x := f) (y := nibbleOf x) (i := i - 8)
  refine h1.trans ?_
  rw [h2]
  by_cases h : i < 8
  · simp [h]
  · have e : (i - 8 < 4) = (i < 12) := by simp only [eq_iff_iff]; omega
    have e' : i - 8 - 4 = i - 12 := by omega
    simp only [h, e, e']

theorem formatX_getLsbD (f : BitVec 4) (x : Reg) (sub : Byte) (i : Nat) :
    (formatX f x sub).getLsbD i =
      if i < 8 then sub.getLsbD i else if i < 12 then (nibbleOf x).getLsbD (i - 8) else f.getLsbD (i - 12) :=
  formatXK_getLsbD f x sub i

theorem formatXY_getLsbD (f : BitVec 4) (x y : Reg) (l : BitVec 4) (i : Nat) :
    (formatXY f x y l).getLsbD i =
      if i < 4 then l.getLsbD i else if i < 8 then (nibbleOf y).getLsbD (i - 4)
      else if i < 12 then (nibbleOf x).getLsbD (i - 8) else f.getLsbD (i - 12) := by
  have h1 := BitVec.getLsbD_append (x := f ++ nibbleOf x ++ nibbleOf y) (y := l) (i := i)
  have h2 := BitVec.getLsbD_append (x := f ++ nibbleOf x) (y := nibbleOf y) (i := i - 4)
  have h3 := BitVec.getLsbD_append (x := f) (y := nibbleOf x) (i := i - 4 - 4)
  refine h1.trans ?_
  rw [h2, h3]
  by_cases h : i < 4
  · simp [h]
  · have e : (i - 4 < 4) = (i < 8) := by simp only [eq_iff_iff]; omega
    have e' : (i - 8 < 4) = (i < 12) := by simp only [eq_iff_iff]; omega
    have e1 : i - 4 - 4 = i - 8 := by omega
    have e2 : i - 8 - 4 = i - 12 := by omega
    simp only [h, e, e', e1, e2, if_false]

/-! ## Fields of a format (R46) -/

/-- Two bit strings agree when they agree on the bits below their width. -/
theorem extract_eq {w start : Nat} {raw : Word} {v : BitVec w}
    (h : ∀ i, i < w → raw.getLsbD (start + i) = v.getLsbD i) : raw.extractLsb' start w = v := by
  apply BitVec.eq_of_getLsbD_eq
  intro i hi
  rw [BitVec.getLsbD_extractLsb', h i hi]
  simp [hi]

@[simp] theorem topNibble_formatA (f : BitVec 4) (nnn : BitVec 12) : topNibble (formatA f nnn) = f := by
  refine extract_eq fun i hi => ?_
  rw [formatA_getLsbD, if_neg (by omega)]
  congr 1
  omega

@[simp] theorem topNibble_formatXK (f : BitVec 4) (x : Reg) (kk : Byte) : topNibble (formatXK f x kk) = f := by
  refine extract_eq fun i hi => ?_
  rw [formatXK_getLsbD, if_neg (by omega), if_neg (by omega)]
  congr 1
  omega

@[simp] theorem topNibble_formatX (f : BitVec 4) (x : Reg) (sub : Byte) : topNibble (formatX f x sub) = f :=
  topNibble_formatXK f x sub

@[simp] theorem topNibble_formatXY (f : BitVec 4) (x y : Reg) (l : BitVec 4) : topNibble (formatXY f x y l) = f := by
  refine extract_eq fun i hi => ?_
  rw [formatXY_getLsbD, if_neg (by omega), if_neg (by omega), if_neg (by omega)]
  congr 1
  omega

@[simp] theorem fieldNNN_formatA (f : BitVec 4) (nnn : BitVec 12) : fieldNNN (formatA f nnn) = nnn := by
  refine extract_eq fun i hi => ?_
  rw [formatA_getLsbD, if_pos (by omega), Nat.zero_add]

@[simp] theorem fieldKK_formatXK (f : BitVec 4) (x : Reg) (kk : Byte) : fieldKK (formatXK f x kk) = kk := by
  refine extract_eq fun i hi => ?_
  rw [formatXK_getLsbD, if_pos (by omega), Nat.zero_add]

@[simp] theorem fieldKK_formatX (f : BitVec 4) (x : Reg) (sub : Byte) : fieldKK (formatX f x sub) = sub :=
  fieldKK_formatXK f x sub

@[simp] theorem fieldX_formatXK (f : BitVec 4) (x : Reg) (kk : Byte) : fieldX (formatXK f x kk) = x := by
  have : (formatXK f x kk).extractLsb' 8 4 = nibbleOf x := by
    refine extract_eq fun i hi => ?_
    rw [formatXK_getLsbD, if_neg (by omega), if_pos (by omega)]
    congr 1
    omega
  rw [fieldX, this, nibbleOf_toFin]

@[simp] theorem fieldX_formatX (f : BitVec 4) (x : Reg) (sub : Byte) : fieldX (formatX f x sub) = x :=
  fieldX_formatXK f x sub

@[simp] theorem fieldX_formatXY (f : BitVec 4) (x y : Reg) (l : BitVec 4) : fieldX (formatXY f x y l) = x := by
  have : (formatXY f x y l).extractLsb' 8 4 = nibbleOf x := by
    refine extract_eq fun i hi => ?_
    rw [formatXY_getLsbD, if_neg (by omega), if_neg (by omega), if_pos (by omega)]
    congr 1
    omega
  rw [fieldX, this, nibbleOf_toFin]

@[simp] theorem fieldY_formatXY (f : BitVec 4) (x y : Reg) (l : BitVec 4) : fieldY (formatXY f x y l) = y := by
  have : (formatXY f x y l).extractLsb' 4 4 = nibbleOf y := by
    refine extract_eq fun i hi => ?_
    rw [formatXY_getLsbD, if_neg (by omega), if_pos (by omega)]
    congr 1
    omega
  rw [fieldY, this, nibbleOf_toFin]

@[simp] theorem fieldN_formatXY (f : BitVec 4) (x y n : Fin 16) : fieldN (formatXY f x y (nibbleOf n)) = n := by
  have : (formatXY f x y (nibbleOf n)).extractLsb' 0 4 = nibbleOf n := by
    refine extract_eq fun i hi => ?_
    rw [formatXY_getLsbD, if_pos (by omega), Nat.zero_add]
  rw [fieldN, this, nibbleOf_toFin]

/-! ## The fixed bits of a format (R49) -/

/-- Two words masked alike agree when they agree on every bit. -/
theorem masked_eq {a m p : Word} (h : ∀ i, i < 16 → (a.getLsbD i && m.getLsbD i) = p.getLsbD i) : a &&& m = p := by
  apply BitVec.eq_of_getLsbD_eq
  intro i hi
  rw [BitVec.getLsbD_and, h i hi]

theorem formatA_fixed (f : BitVec 4) (nnn : BitVec 12) : formatA f nnn &&& 0xF000#16 = formatA f 0 := by
  refine masked_eq fun i hi => ?_
  rw [formatA_getLsbD, formatA_getLsbD]
  interval_cases i <;> simp

theorem formatXK_fixed (f : BitVec 4) (x : Reg) (kk : Byte) : formatXK f x kk &&& 0xF000#16 = formatXK f 0 0 := by
  refine masked_eq fun i hi => ?_
  rw [formatXK_getLsbD, formatXK_getLsbD]
  interval_cases i <;> simp [nibbleOf]

theorem formatX_fixed (f : BitVec 4) (x : Reg) (sub : Byte) : formatX f x sub &&& 0xF0FF#16 = formatX f 0 sub := by
  refine masked_eq fun i hi => ?_
  rw [formatX_getLsbD, formatX_getLsbD]
  interval_cases i <;> simp [nibbleOf]

theorem formatXY_fixed (f : BitVec 4) (x y : Reg) (l : BitVec 4) :
    formatXY f x y l &&& 0xF000#16 = formatXY f 0 0 0 := by
  refine masked_eq fun i hi => ?_
  rw [formatXY_getLsbD, formatXY_getLsbD]
  interval_cases i <;> simp [nibbleOf]

theorem formatXY_fixed_low (f : BitVec 4) (x y : Reg) (l : BitVec 4) :
    formatXY f x y l &&& 0xF00F#16 = formatXY f 0 0 l := by
  refine masked_eq fun i hi => ?_
  rw [formatXY_getLsbD, formatXY_getLsbD]
  interval_cases i <;> simp [nibbleOf]

/-! ## The dispatch key of a family (R48) -/

theorem dispatchKey_of_low {raw : Word} (h : topNibble raw = 0x0#4 ∨ topNibble raw = 0xE#4 ∨ topNibble raw = 0xF#4) :
    dispatchKey raw = raw &&& 0xF0FF#16 := by
  simp only [dispatchKey, if_pos h]

theorem dispatchKey_of_arith {raw : Word} (h : topNibble raw = 0x8#4) : dispatchKey raw = raw &&& 0xF00F#16 := by
  simp [dispatchKey, h]

theorem dispatchKey_of_plain {raw : Word} (h0 : topNibble raw ≠ 0x0#4) (h8 : topNibble raw ≠ 0x8#4)
    (hE : topNibble raw ≠ 0xE#4) (hF : topNibble raw ≠ 0xF#4) : dispatchKey raw = raw &&& 0xF000#16 := by
  simp [dispatchKey, h0, h8, hE, hF]

/-! ## Bytes and words (R34) -/

/-- A word is the word of its two bytes. -/
theorem wordOfBytes_bytesOfWord (raw : Word) :
    wordOfBytes (raw.extractLsb' 8 8) (raw.extractLsb' 0 8) = raw := by
  apply BitVec.eq_of_getLsbD_eq
  intro i hi
  refine (BitVec.getLsbD_append (x := raw.extractLsb' 8 8) (y := raw.extractLsb' 0 8) (i := i)).trans ?_
  by_cases h : i < 8
  · simp [h]
  · have e : 8 + (i - 8) = i := by omega
    have e' : i - 8 < 8 := by omega
    simp [h, e, e']

@[simp] theorem length_bytesOfWord (raw : Word) : (bytesOfWord raw).length = 2 := rfl

end Sys2Proof
end

