-- ==== Sys2Proof/Laws/State.lean ====
section
/-! SUPPORT. One lemma for each field of the state under each write of one element, true by rfl, so that no later proof
unfolds a record update; and reading a register after a register write. -/

namespace Sys2Proof.Machine

/-! ## setIndex -/

@[simp] theorem State.setIndex_regs (s : State) (v : Word) : (s.setIndex v).regs = s.regs := rfl
@[simp] theorem State.setIndex_index (s : State) (v : Word) : (s.setIndex v).index = v := rfl
@[simp] theorem State.setIndex_pc (s : State) (v : Word) : (s.setIndex v).pc = s.pc := rfl
@[simp] theorem State.setIndex_sp (s : State) (v : Word) : (s.setIndex v).sp = s.sp := rfl
@[simp] theorem State.setIndex_stack (s : State) (v : Word) : (s.setIndex v).stack = s.stack := rfl
@[simp] theorem State.setIndex_delayTimer (s : State) (v : Word) : (s.setIndex v).delayTimer = s.delayTimer := rfl
@[simp] theorem State.setIndex_soundTimer (s : State) (v : Word) : (s.setIndex v).soundTimer = s.soundTimer := rfl
@[simp] theorem State.setIndex_keys (s : State) (v : Word) : (s.setIndex v).keys = s.keys := rfl
@[simp] theorem State.setIndex_video (s : State) (v : Word) : (s.setIndex v).video = s.video := rfl
@[simp] theorem State.setIndex_dirty (s : State) (v : Word) : (s.setIndex v).dirty = s.dirty := rfl
@[simp] theorem State.setIndex_mem (s : State) (v : Word) : (s.setIndex v).mem = s.mem := rfl
@[simp] theorem State.setIndex_latch (s : State) (v : Word) : (s.setIndex v).latch = s.latch := rfl
@[simp] theorem State.setIndex_draws (s : State) (v : Word) : (s.setIndex v).draws = s.draws := rfl
@[simp] theorem State.setIndex_reg (s : State) (v : Word) (r : Reg) : (s.setIndex v).reg r = s.reg r := rfl

/-! ## setPc -/

@[simp] theorem State.setPc_regs (s : State) (v : Word) : (s.setPc v).regs = s.regs := rfl
@[simp] theorem State.setPc_index (s : State) (v : Word) : (s.setPc v).index = s.index := rfl
@[simp] theorem State.setPc_pc (s : State) (v : Word) : (s.setPc v).pc = v := rfl
@[simp] theorem State.setPc_sp (s : State) (v : Word) : (s.setPc v).sp = s.sp := rfl
@[simp] theorem State.setPc_stack (s : State) (v : Word) : (s.setPc v).stack = s.stack := rfl
@[simp] theorem State.setPc_delayTimer (s : State) (v : Word) : (s.setPc v).delayTimer = s.delayTimer := rfl
@[simp] theorem State.setPc_soundTimer (s : State) (v : Word) : (s.setPc v).soundTimer = s.soundTimer := rfl
@[simp] theorem State.setPc_keys (s : State) (v : Word) : (s.setPc v).keys = s.keys := rfl
@[simp] theorem State.setPc_video (s : State) (v : Word) : (s.setPc v).video = s.video := rfl
@[simp] theorem State.setPc_dirty (s : State) (v : Word) : (s.setPc v).dirty = s.dirty := rfl
@[simp] theorem State.setPc_mem (s : State) (v : Word) : (s.setPc v).mem = s.mem := rfl
@[simp] theorem State.setPc_latch (s : State) (v : Word) : (s.setPc v).latch = s.latch := rfl
@[simp] theorem State.setPc_draws (s : State) (v : Word) : (s.setPc v).draws = s.draws := rfl
@[simp] theorem State.setPc_reg (s : State) (v : Word) (r : Reg) : (s.setPc v).reg r = s.reg r := rfl

/-! ## setSp -/

@[simp] theorem State.setSp_regs (s : State) (v : Byte) : (s.setSp v).regs = s.regs := rfl
@[simp] theorem State.setSp_index (s : State) (v : Byte) : (s.setSp v).index = s.index := rfl
@[simp] theorem State.setSp_pc (s : State) (v : Byte) : (s.setSp v).pc = s.pc := rfl
@[simp] theorem State.setSp_sp (s : State) (v : Byte) : (s.setSp v).sp = v := rfl
@[simp] theorem State.setSp_stack (s : State) (v : Byte) : (s.setSp v).stack = s.stack := rfl
@[simp] theorem State.setSp_delayTimer (s : State) (v : Byte) : (s.setSp v).delayTimer = s.delayTimer := rfl
@[simp] theorem State.setSp_soundTimer (s : State) (v : Byte) : (s.setSp v).soundTimer = s.soundTimer := rfl
@[simp] theorem State.setSp_keys (s : State) (v : Byte) : (s.setSp v).keys = s.keys := rfl
@[simp] theorem State.setSp_video (s : State) (v : Byte) : (s.setSp v).video = s.video := rfl
@[simp] theorem State.setSp_dirty (s : State) (v : Byte) : (s.setSp v).dirty = s.dirty := rfl
@[simp] theorem State.setSp_mem (s : State) (v : Byte) : (s.setSp v).mem = s.mem := rfl
@[simp] theorem State.setSp_latch (s : State) (v : Byte) : (s.setSp v).latch = s.latch := rfl
@[simp] theorem State.setSp_draws (s : State) (v : Byte) : (s.setSp v).draws = s.draws := rfl
@[simp] theorem State.setSp_reg (s : State) (v : Byte) (r : Reg) : (s.setSp v).reg r = s.reg r := rfl

/-! ## setStack -/

@[simp] theorem State.setStack_regs (s : State) (v : Vector Word 16) : (s.setStack v).regs = s.regs := rfl
@[simp] theorem State.setStack_index (s : State) (v : Vector Word 16) : (s.setStack v).index = s.index := rfl
@[simp] theorem State.setStack_pc (s : State) (v : Vector Word 16) : (s.setStack v).pc = s.pc := rfl
@[simp] theorem State.setStack_sp (s : State) (v : Vector Word 16) : (s.setStack v).sp = s.sp := rfl
@[simp] theorem State.setStack_stack (s : State) (v : Vector Word 16) : (s.setStack v).stack = v := rfl
@[simp] theorem State.setStack_delayTimer (s : State) (v : Vector Word 16) : (s.setStack v).delayTimer = s.delayTimer := rfl
@[simp] theorem State.setStack_soundTimer (s : State) (v : Vector Word 16) : (s.setStack v).soundTimer = s.soundTimer := rfl
@[simp] theorem State.setStack_keys (s : State) (v : Vector Word 16) : (s.setStack v).keys = s.keys := rfl
@[simp] theorem State.setStack_video (s : State) (v : Vector Word 16) : (s.setStack v).video = s.video := rfl
@[simp] theorem State.setStack_dirty (s : State) (v : Vector Word 16) : (s.setStack v).dirty = s.dirty := rfl
@[simp] theorem State.setStack_mem (s : State) (v : Vector Word 16) : (s.setStack v).mem = s.mem := rfl
@[simp] theorem State.setStack_latch (s : State) (v : Vector Word 16) : (s.setStack v).latch = s.latch := rfl
@[simp] theorem State.setStack_draws (s : State) (v : Vector Word 16) : (s.setStack v).draws = s.draws := rfl
@[simp] theorem State.setStack_reg (s : State) (v : Vector Word 16) (r : Reg) : (s.setStack v).reg r = s.reg r := rfl

/-! ## setDelayTimer -/

@[simp] theorem State.setDelayTimer_regs (s : State) (v : Byte) : (s.setDelayTimer v).regs = s.regs := rfl
@[simp] theorem State.setDelayTimer_index (s : State) (v : Byte) : (s.setDelayTimer v).index = s.index := rfl
@[simp] theorem State.setDelayTimer_pc (s : State) (v : Byte) : (s.setDelayTimer v).pc = s.pc := rfl
@[simp] theorem State.setDelayTimer_sp (s : State) (v : Byte) : (s.setDelayTimer v).sp = s.sp := rfl
@[simp] theorem State.setDelayTimer_stack (s : State) (v : Byte) : (s.setDelayTimer v).stack = s.stack := rfl
@[simp] theorem State.setDelayTimer_delayTimer (s : State) (v : Byte) : (s.setDelayTimer v).delayTimer = v := rfl
@[simp] theorem State.setDelayTimer_soundTimer (s : State) (v : Byte) : (s.setDelayTimer v).soundTimer = s.soundTimer := rfl
@[simp] theorem State.setDelayTimer_keys (s : State) (v : Byte) : (s.setDelayTimer v).keys = s.keys := rfl
@[simp] theorem State.setDelayTimer_video (s : State) (v : Byte) : (s.setDelayTimer v).video = s.video := rfl
@[simp] theorem State.setDelayTimer_dirty (s : State) (v : Byte) : (s.setDelayTimer v).dirty = s.dirty := rfl
@[simp] theorem State.setDelayTimer_mem (s : State) (v : Byte) : (s.setDelayTimer v).mem = s.mem := rfl
@[simp] theorem State.setDelayTimer_latch (s : State) (v : Byte) : (s.setDelayTimer v).latch = s.latch := rfl
@[simp] theorem State.setDelayTimer_draws (s : State) (v : Byte) : (s.setDelayTimer v).draws = s.draws := rfl
@[simp] theorem State.setDelayTimer_reg (s : State) (v : Byte) (r : Reg) : (s.setDelayTimer v).reg r = s.reg r := rfl

/-! ## setSoundTimer -/

@[simp] theorem State.setSoundTimer_regs (s : State) (v : Byte) : (s.setSoundTimer v).regs = s.regs := rfl
@[simp] theorem State.setSoundTimer_index (s : State) (v : Byte) : (s.setSoundTimer v).index = s.index := rfl
@[simp] theorem State.setSoundTimer_pc (s : State) (v : Byte) : (s.setSoundTimer v).pc = s.pc := rfl
@[simp] theorem State.setSoundTimer_sp (s : State) (v : Byte) : (s.setSoundTimer v).sp = s.sp := rfl
@[simp] theorem State.setSoundTimer_stack (s : State) (v : Byte) : (s.setSoundTimer v).stack = s.stack := rfl
@[simp] theorem State.setSoundTimer_delayTimer (s : State) (v : Byte) : (s.setSoundTimer v).delayTimer = s.delayTimer := rfl
@[simp] theorem State.setSoundTimer_soundTimer (s : State) (v : Byte) : (s.setSoundTimer v).soundTimer = v := rfl
@[simp] theorem State.setSoundTimer_keys (s : State) (v : Byte) : (s.setSoundTimer v).keys = s.keys := rfl
@[simp] theorem State.setSoundTimer_video (s : State) (v : Byte) : (s.setSoundTimer v).video = s.video := rfl
@[simp] theorem State.setSoundTimer_dirty (s : State) (v : Byte) : (s.setSoundTimer v).dirty = s.dirty := rfl
@[simp] theorem State.setSoundTimer_mem (s : State) (v : Byte) : (s.setSoundTimer v).mem = s.mem := rfl
@[simp] theorem State.setSoundTimer_latch (s : State) (v : Byte) : (s.setSoundTimer v).latch = s.latch := rfl
@[simp] theorem State.setSoundTimer_draws (s : State) (v : Byte) : (s.setSoundTimer v).draws = s.draws := rfl
@[simp] theorem State.setSoundTimer_reg (s : State) (v : Byte) (r : Reg) : (s.setSoundTimer v).reg r = s.reg r := rfl

/-! ## setKeys -/

@[simp] theorem State.setKeys_regs (s : State) (v : KeyVector) : (s.setKeys v).regs = s.regs := rfl
@[simp] theorem State.setKeys_index (s : State) (v : KeyVector) : (s.setKeys v).index = s.index := rfl
@[simp] theorem State.setKeys_pc (s : State) (v : KeyVector) : (s.setKeys v).pc = s.pc := rfl
@[simp] theorem State.setKeys_sp (s : State) (v : KeyVector) : (s.setKeys v).sp = s.sp := rfl
@[simp] theorem State.setKeys_stack (s : State) (v : KeyVector) : (s.setKeys v).stack = s.stack := rfl
@[simp] theorem State.setKeys_delayTimer (s : State) (v : KeyVector) : (s.setKeys v).delayTimer = s.delayTimer := rfl
@[simp] theorem State.setKeys_soundTimer (s : State) (v : KeyVector) : (s.setKeys v).soundTimer = s.soundTimer := rfl
@[simp] theorem State.setKeys_keys (s : State) (v : KeyVector) : (s.setKeys v).keys = v := rfl
@[simp] theorem State.setKeys_video (s : State) (v : KeyVector) : (s.setKeys v).video = s.video := rfl
@[simp] theorem State.setKeys_dirty (s : State) (v : KeyVector) : (s.setKeys v).dirty = s.dirty := rfl
@[simp] theorem State.setKeys_mem (s : State) (v : KeyVector) : (s.setKeys v).mem = s.mem := rfl
@[simp] theorem State.setKeys_latch (s : State) (v : KeyVector) : (s.setKeys v).latch = s.latch := rfl
@[simp] theorem State.setKeys_draws (s : State) (v : KeyVector) : (s.setKeys v).draws = s.draws := rfl
@[simp] theorem State.setKeys_reg (s : State) (v : KeyVector) (r : Reg) : (s.setKeys v).reg r = s.reg r := rfl

/-! ## setVideo -/

@[simp] theorem State.setVideo_regs (s : State) (v : Video) : (s.setVideo v).regs = s.regs := rfl
@[simp] theorem State.setVideo_index (s : State) (v : Video) : (s.setVideo v).index = s.index := rfl
@[simp] theorem State.setVideo_pc (s : State) (v : Video) : (s.setVideo v).pc = s.pc := rfl
@[simp] theorem State.setVideo_sp (s : State) (v : Video) : (s.setVideo v).sp = s.sp := rfl
@[simp] theorem State.setVideo_stack (s : State) (v : Video) : (s.setVideo v).stack = s.stack := rfl
@[simp] theorem State.setVideo_delayTimer (s : State) (v : Video) : (s.setVideo v).delayTimer = s.delayTimer := rfl
@[simp] theorem State.setVideo_soundTimer (s : State) (v : Video) : (s.setVideo v).soundTimer = s.soundTimer := rfl
@[simp] theorem State.setVideo_keys (s : State) (v : Video) : (s.setVideo v).keys = s.keys := rfl
@[simp] theorem State.setVideo_video (s : State) (v : Video) : (s.setVideo v).video = v := rfl
@[simp] theorem State.setVideo_dirty (s : State) (v : Video) : (s.setVideo v).dirty = s.dirty := rfl
@[simp] theorem State.setVideo_mem (s : State) (v : Video) : (s.setVideo v).mem = s.mem := rfl
@[simp] theorem State.setVideo_latch (s : State) (v : Video) : (s.setVideo v).latch = s.latch := rfl
@[simp] theorem State.setVideo_draws (s : State) (v : Video) : (s.setVideo v).draws = s.draws := rfl
@[simp] theorem State.setVideo_reg (s : State) (v : Video) (r : Reg) : (s.setVideo v).reg r = s.reg r := rfl

/-! ## setDirty -/

@[simp] theorem State.setDirty_regs (s : State) (v : Bool) : (s.setDirty v).regs = s.regs := rfl
@[simp] theorem State.setDirty_index (s : State) (v : Bool) : (s.setDirty v).index = s.index := rfl
@[simp] theorem State.setDirty_pc (s : State) (v : Bool) : (s.setDirty v).pc = s.pc := rfl
@[simp] theorem State.setDirty_sp (s : State) (v : Bool) : (s.setDirty v).sp = s.sp := rfl
@[simp] theorem State.setDirty_stack (s : State) (v : Bool) : (s.setDirty v).stack = s.stack := rfl
@[simp] theorem State.setDirty_delayTimer (s : State) (v : Bool) : (s.setDirty v).delayTimer = s.delayTimer := rfl
@[simp] theorem State.setDirty_soundTimer (s : State) (v : Bool) : (s.setDirty v).soundTimer = s.soundTimer := rfl
@[simp] theorem State.setDirty_keys (s : State) (v : Bool) : (s.setDirty v).keys = s.keys := rfl
@[simp] theorem State.setDirty_video (s : State) (v : Bool) : (s.setDirty v).video = s.video := rfl
@[simp] theorem State.setDirty_dirty (s : State) (v : Bool) : (s.setDirty v).dirty = v := rfl
@[simp] theorem State.setDirty_mem (s : State) (v : Bool) : (s.setDirty v).mem = s.mem := rfl
@[simp] theorem State.setDirty_latch (s : State) (v : Bool) : (s.setDirty v).latch = s.latch := rfl
@[simp] theorem State.setDirty_draws (s : State) (v : Bool) : (s.setDirty v).draws = s.draws := rfl
@[simp] theorem State.setDirty_reg (s : State) (v : Bool) (r : Reg) : (s.setDirty v).reg r = s.reg r := rfl

/-! ## setMem -/

@[simp] theorem State.setMem_regs (s : State) (v : Memory) : (s.setMem v).regs = s.regs := rfl
@[simp] theorem State.setMem_index (s : State) (v : Memory) : (s.setMem v).index = s.index := rfl
@[simp] theorem State.setMem_pc (s : State) (v : Memory) : (s.setMem v).pc = s.pc := rfl
@[simp] theorem State.setMem_sp (s : State) (v : Memory) : (s.setMem v).sp = s.sp := rfl
@[simp] theorem State.setMem_stack (s : State) (v : Memory) : (s.setMem v).stack = s.stack := rfl
@[simp] theorem State.setMem_delayTimer (s : State) (v : Memory) : (s.setMem v).delayTimer = s.delayTimer := rfl
@[simp] theorem State.setMem_soundTimer (s : State) (v : Memory) : (s.setMem v).soundTimer = s.soundTimer := rfl
@[simp] theorem State.setMem_keys (s : State) (v : Memory) : (s.setMem v).keys = s.keys := rfl
@[simp] theorem State.setMem_video (s : State) (v : Memory) : (s.setMem v).video = s.video := rfl
@[simp] theorem State.setMem_dirty (s : State) (v : Memory) : (s.setMem v).dirty = s.dirty := rfl
@[simp] theorem State.setMem_mem (s : State) (v : Memory) : (s.setMem v).mem = v := rfl
@[simp] theorem State.setMem_latch (s : State) (v : Memory) : (s.setMem v).latch = s.latch := rfl
@[simp] theorem State.setMem_draws (s : State) (v : Memory) : (s.setMem v).draws = s.draws := rfl
@[simp] theorem State.setMem_reg (s : State) (v : Memory) (r : Reg) : (s.setMem v).reg r = s.reg r := rfl

/-! ## setLatch -/

@[simp] theorem State.setLatch_regs (s : State) (v : Option FaultCause) : (s.setLatch v).regs = s.regs := rfl
@[simp] theorem State.setLatch_index (s : State) (v : Option FaultCause) : (s.setLatch v).index = s.index := rfl
@[simp] theorem State.setLatch_pc (s : State) (v : Option FaultCause) : (s.setLatch v).pc = s.pc := rfl
@[simp] theorem State.setLatch_sp (s : State) (v : Option FaultCause) : (s.setLatch v).sp = s.sp := rfl
@[simp] theorem State.setLatch_stack (s : State) (v : Option FaultCause) : (s.setLatch v).stack = s.stack := rfl
@[simp] theorem State.setLatch_delayTimer (s : State) (v : Option FaultCause) : (s.setLatch v).delayTimer = s.delayTimer := rfl
@[simp] theorem State.setLatch_soundTimer (s : State) (v : Option FaultCause) : (s.setLatch v).soundTimer = s.soundTimer := rfl
@[simp] theorem State.setLatch_keys (s : State) (v : Option FaultCause) : (s.setLatch v).keys = s.keys := rfl
@[simp] theorem State.setLatch_video (s : State) (v : Option FaultCause) : (s.setLatch v).video = s.video := rfl
@[simp] theorem State.setLatch_dirty (s : State) (v : Option FaultCause) : (s.setLatch v).dirty = s.dirty := rfl
@[simp] theorem State.setLatch_mem (s : State) (v : Option FaultCause) : (s.setLatch v).mem = s.mem := rfl
@[simp] theorem State.setLatch_latch (s : State) (v : Option FaultCause) : (s.setLatch v).latch = v := rfl
@[simp] theorem State.setLatch_draws (s : State) (v : Option FaultCause) : (s.setLatch v).draws = s.draws := rfl
@[simp] theorem State.setLatch_reg (s : State) (v : Option FaultCause) (r : Reg) : (s.setLatch v).reg r = s.reg r := rfl

/-! ## setDraws -/

@[simp] theorem State.setDraws_regs (s : State) (v : Nat) : (s.setDraws v).regs = s.regs := rfl
@[simp] theorem State.setDraws_index (s : State) (v : Nat) : (s.setDraws v).index = s.index := rfl
@[simp] theorem State.setDraws_pc (s : State) (v : Nat) : (s.setDraws v).pc = s.pc := rfl
@[simp] theorem State.setDraws_sp (s : State) (v : Nat) : (s.setDraws v).sp = s.sp := rfl
@[simp] theorem State.setDraws_stack (s : State) (v : Nat) : (s.setDraws v).stack = s.stack := rfl
@[simp] theorem State.setDraws_delayTimer (s : State) (v : Nat) : (s.setDraws v).delayTimer = s.delayTimer := rfl
@[simp] theorem State.setDraws_soundTimer (s : State) (v : Nat) : (s.setDraws v).soundTimer = s.soundTimer := rfl
@[simp] theorem State.setDraws_keys (s : State) (v : Nat) : (s.setDraws v).keys = s.keys := rfl
@[simp] theorem State.setDraws_video (s : State) (v : Nat) : (s.setDraws v).video = s.video := rfl
@[simp] theorem State.setDraws_dirty (s : State) (v : Nat) : (s.setDraws v).dirty = s.dirty := rfl
@[simp] theorem State.setDraws_mem (s : State) (v : Nat) : (s.setDraws v).mem = s.mem := rfl
@[simp] theorem State.setDraws_latch (s : State) (v : Nat) : (s.setDraws v).latch = s.latch := rfl
@[simp] theorem State.setDraws_draws (s : State) (v : Nat) : (s.setDraws v).draws = v := rfl
@[simp] theorem State.setDraws_reg (s : State) (v : Nat) (r : Reg) : (s.setDraws v).reg r = s.reg r := rfl

/-! ## setReg -/

@[simp] theorem State.setReg_index (s : State) (r : Reg) (v : Byte) : (s.setReg r v).index = s.index := rfl
@[simp] theorem State.setReg_pc (s : State) (r : Reg) (v : Byte) : (s.setReg r v).pc = s.pc := rfl
@[simp] theorem State.setReg_sp (s : State) (r : Reg) (v : Byte) : (s.setReg r v).sp = s.sp := rfl
@[simp] theorem State.setReg_stack (s : State) (r : Reg) (v : Byte) : (s.setReg r v).stack = s.stack := rfl
@[simp] theorem State.setReg_delayTimer (s : State) (r : Reg) (v : Byte) : (s.setReg r v).delayTimer = s.delayTimer := rfl
@[simp] theorem State.setReg_soundTimer (s : State) (r : Reg) (v : Byte) : (s.setReg r v).soundTimer = s.soundTimer := rfl
@[simp] theorem State.setReg_keys (s : State) (r : Reg) (v : Byte) : (s.setReg r v).keys = s.keys := rfl
@[simp] theorem State.setReg_video (s : State) (r : Reg) (v : Byte) : (s.setReg r v).video = s.video := rfl
@[simp] theorem State.setReg_dirty (s : State) (r : Reg) (v : Byte) : (s.setReg r v).dirty = s.dirty := rfl
@[simp] theorem State.setReg_mem (s : State) (r : Reg) (v : Byte) : (s.setReg r v).mem = s.mem := rfl
@[simp] theorem State.setReg_latch (s : State) (r : Reg) (v : Byte) : (s.setReg r v).latch = s.latch := rfl
@[simp] theorem State.setReg_draws (s : State) (r : Reg) (v : Byte) : (s.setReg r v).draws = s.draws := rfl

/-- Reading any register after one write (R10). -/
theorem State.setReg_reg (s : State) (r q : Reg) (v : Byte) : (s.setReg r v).reg q = if q = r then v else s.reg q := by
  by_cases h : q = r
  · subst h; simp [State.reg, State.setReg]
  · have h' : r.val ≠ q.val := fun e => h (Fin.ext e.symm)
    simp [State.reg, State.setReg, h, Vector.getElem_set_ne _ _ h']

@[simp] theorem State.setReg_reg_same (s : State) (r : Reg) (v : Byte) : (s.setReg r v).reg r = v := by
  simp [State.setReg_reg]

@[simp] theorem State.setReg_reg_other (s : State) {r q : Reg} (v : Byte) (h : q ≠ r) :
    (s.setReg r v).reg q = s.reg q := by
  simp [State.setReg_reg, h]

/-! ## advance, rewind, skipIf, the stack entry -/

@[simp] theorem State.advance_regs (s : State) : s.advance.regs = s.regs := rfl
@[simp] theorem State.advance_index (s : State) : s.advance.index = s.index := rfl
@[simp] theorem State.advance_pc (s : State) : s.advance.pc = s.pc + 2#16 := rfl
@[simp] theorem State.advance_sp (s : State) : s.advance.sp = s.sp := rfl
@[simp] theorem State.advance_stack (s : State) : s.advance.stack = s.stack := rfl
@[simp] theorem State.advance_delayTimer (s : State) : s.advance.delayTimer = s.delayTimer := rfl
@[simp] theorem State.advance_soundTimer (s : State) : s.advance.soundTimer = s.soundTimer := rfl
@[simp] theorem State.advance_keys (s : State) : s.advance.keys = s.keys := rfl
@[simp] theorem State.advance_video (s : State) : s.advance.video = s.video := rfl
@[simp] theorem State.advance_dirty (s : State) : s.advance.dirty = s.dirty := rfl
@[simp] theorem State.advance_mem (s : State) : s.advance.mem = s.mem := rfl
@[simp] theorem State.advance_latch (s : State) : s.advance.latch = s.latch := rfl
@[simp] theorem State.advance_draws (s : State) : s.advance.draws = s.draws := rfl
@[simp] theorem State.advance_reg (s : State) (r : Reg) : s.advance.reg r = s.reg r := rfl

@[simp] theorem State.rewind_regs (s : State) : s.rewind.regs = s.regs := rfl
@[simp] theorem State.rewind_index (s : State) : s.rewind.index = s.index := rfl
@[simp] theorem State.rewind_pc (s : State) : s.rewind.pc = s.pc - 2#16 := rfl
@[simp] theorem State.rewind_sp (s : State) : s.rewind.sp = s.sp := rfl
@[simp] theorem State.rewind_stack (s : State) : s.rewind.stack = s.stack := rfl
@[simp] theorem State.rewind_delayTimer (s : State) : s.rewind.delayTimer = s.delayTimer := rfl
@[simp] theorem State.rewind_soundTimer (s : State) : s.rewind.soundTimer = s.soundTimer := rfl
@[simp] theorem State.rewind_keys (s : State) : s.rewind.keys = s.keys := rfl
@[simp] theorem State.rewind_video (s : State) : s.rewind.video = s.video := rfl
@[simp] theorem State.rewind_dirty (s : State) : s.rewind.dirty = s.dirty := rfl
@[simp] theorem State.rewind_mem (s : State) : s.rewind.mem = s.mem := rfl
@[simp] theorem State.rewind_latch (s : State) : s.rewind.latch = s.latch := rfl
@[simp] theorem State.rewind_draws (s : State) : s.rewind.draws = s.draws := rfl
@[simp] theorem State.rewind_reg (s : State) (r : Reg) : s.rewind.reg r = s.reg r := rfl

/-- The rewind of a handler undoes the fetch's advance, whatever `PC` (R98, R111). -/
@[simp] theorem State.rewind_advance (s : State) : s.advance.rewind = s := by
  simp [State.advance, State.rewind, State.setPc]

@[simp] theorem State.skipIf_regs (s : State) (c : Bool) : (s.skipIf c).regs = s.regs := by cases c <;> rfl
@[simp] theorem State.skipIf_index (s : State) (c : Bool) : (s.skipIf c).index = s.index := by cases c <;> rfl
theorem State.skipIf_pc (s : State) (c : Bool) : (s.skipIf c).pc = if c then s.pc + 2#16 else s.pc := by
  cases c <;> rfl
@[simp] theorem State.skipIf_sp (s : State) (c : Bool) : (s.skipIf c).sp = s.sp := by cases c <;> rfl
@[simp] theorem State.skipIf_stack (s : State) (c : Bool) : (s.skipIf c).stack = s.stack := by cases c <;> rfl
@[simp] theorem State.skipIf_delayTimer (s : State) (c : Bool) : (s.skipIf c).delayTimer = s.delayTimer := by cases c <;> rfl
@[simp] theorem State.skipIf_soundTimer (s : State) (c : Bool) : (s.skipIf c).soundTimer = s.soundTimer := by cases c <;> rfl
@[simp] theorem State.skipIf_keys (s : State) (c : Bool) : (s.skipIf c).keys = s.keys := by cases c <;> rfl
@[simp] theorem State.skipIf_video (s : State) (c : Bool) : (s.skipIf c).video = s.video := by cases c <;> rfl
@[simp] theorem State.skipIf_dirty (s : State) (c : Bool) : (s.skipIf c).dirty = s.dirty := by cases c <;> rfl
@[simp] theorem State.skipIf_mem (s : State) (c : Bool) : (s.skipIf c).mem = s.mem := by cases c <;> rfl
@[simp] theorem State.skipIf_latch (s : State) (c : Bool) : (s.skipIf c).latch = s.latch := by cases c <;> rfl
@[simp] theorem State.skipIf_draws (s : State) (c : Bool) : (s.skipIf c).draws = s.draws := by cases c <;> rfl
@[simp] theorem State.skipIf_reg (s : State) (c : Bool) (r : Reg) : (s.skipIf c).reg r = s.reg r := by cases c <;> rfl

@[simp] theorem State.setStackEntry_regs (s : State) (i : Nat) (v : Word) : (s.setStackEntry i v).regs = s.regs := rfl
@[simp] theorem State.setStackEntry_index (s : State) (i : Nat) (v : Word) : (s.setStackEntry i v).index = s.index := rfl
@[simp] theorem State.setStackEntry_pc (s : State) (i : Nat) (v : Word) : (s.setStackEntry i v).pc = s.pc := rfl
@[simp] theorem State.setStackEntry_sp (s : State) (i : Nat) (v : Word) : (s.setStackEntry i v).sp = s.sp := rfl
theorem State.setStackEntry_stack (s : State) (i : Nat) (v : Word) :
    (s.setStackEntry i v).stack = s.stack.setIfInBounds i v := rfl
@[simp] theorem State.setStackEntry_delayTimer (s : State) (i : Nat) (v : Word) : (s.setStackEntry i v).delayTimer = s.delayTimer := rfl
@[simp] theorem State.setStackEntry_soundTimer (s : State) (i : Nat) (v : Word) : (s.setStackEntry i v).soundTimer = s.soundTimer := rfl
@[simp] theorem State.setStackEntry_keys (s : State) (i : Nat) (v : Word) : (s.setStackEntry i v).keys = s.keys := rfl
@[simp] theorem State.setStackEntry_video (s : State) (i : Nat) (v : Word) : (s.setStackEntry i v).video = s.video := rfl
@[simp] theorem State.setStackEntry_dirty (s : State) (i : Nat) (v : Word) : (s.setStackEntry i v).dirty = s.dirty := rfl
@[simp] theorem State.setStackEntry_mem (s : State) (i : Nat) (v : Word) : (s.setStackEntry i v).mem = s.mem := rfl
@[simp] theorem State.setStackEntry_latch (s : State) (i : Nat) (v : Word) : (s.setStackEntry i v).latch = s.latch := rfl
@[simp] theorem State.setStackEntry_draws (s : State) (i : Nat) (v : Word) : (s.setStackEntry i v).draws = s.draws := rfl
@[simp] theorem State.setStackEntry_reg (s : State) (i : Nat) (v : Word) (r : Reg) :
    (s.setStackEntry i v).reg r = s.reg r := rfl

/-- A stack entry after one is written (R15). -/
theorem State.setStackEntry_get (s : State) (i : Nat) (v : Word) (j : Fin 16) :
    (s.setStackEntry i v).stack[j] = if j.val = i then v else s.stack[j] := by
  rw [State.setStackEntry_stack]
  by_cases h : i = j.val
  · subst h; simp
  · have h' : ¬ j.val = i := fun e => h e.symm
    simp [h', Vector.getElem_setIfInBounds_ne j.isLt h]

/-- The entry at an index below 16 is the stack's own (R15). -/
theorem State.stackEntry_of_lt (s : State) {i : Nat} (h : i < 16) : s.stackEntry i = some s.stack[i] := by
  simp [State.stackEntry, h]

/-- There is no entry from index 16 up (R15). -/
theorem State.stackEntry_of_ge (s : State) {i : Nat} (h : 16 ≤ i) : s.stackEntry i = none := by
  simp [State.stackEntry, h]

/-! ## Operand sampling -/

/-- Operands are sampled before every write (R58). -/
@[simp] theorem sampledState_eq (before written : State) : sampledState before written = before := rfl

/-! ## Faults -/

/-- Everything a raised fault does (R111). -/
@[simp] theorem raise_advance (c : FaultCause) (s : State) : raise c s.advance = .next (s.setLatch (some c)) := by
  simp [raise, takeFault]

end Sys2Proof.Machine
end

