-- ==== Sys2Proof/Laws/HostEvents.lean ====
section
/-! SUPPORT. What the host's reading of a state tells: everything but the model's own draw counter. -/

namespace Sys2Proof.Machine

/-- Two states the host reads alike differ in the draw counter at most (R29, R126). -/
theorem hostView_eq_iff (s t : State) : hostView s = hostView t ↔ s = t.setDraws s.draws := by
  cases s
  cases t
  simp [hostView, State.setDraws]

/-- The draw counter is not read. -/
@[simp] theorem hostView_setDraws (s : State) (v : Nat) : hostView (s.setDraws v) = hostView s := rfl

end Sys2Proof.Machine
end

