-- ==== Sys2Proof/Laws/Memory.lean ====
section
/-! SUPPORT. The laws of memory: reading after a store, in every memory; and every operation keeps the canonical form. -/

namespace Sys2Proof.Machine

theorem Memory.read_erase (m : Memory) (a b : Nat) :
    (m.erase a).read b = if b = a then Config.unlistedByte else m.read b := by
  induction m with
  | nil => simp [Memory.erase, Memory.read]
  | cons c m ih =>
    obtain ⟨k, w⟩ := c
    by_cases h : a = k
    · subst h
      rw [Memory.erase, if_pos rfl, ih, Memory.read]
      split <;> rfl
    · rw [Memory.erase, if_neg h, Memory.read, Memory.read, ih]
      split_ifs with h1 h2
      · exact absurd (h2.symm.trans h1) h
      all_goals rfl

theorem Memory.read_insert (m : Memory) (a b : Nat) (v : Byte) (ha : ∀ c ∈ m, c.1 ≠ a) :
    (m.insert a v).read b = if b = a then v else m.read b := by
  induction m with
  | nil => simp [Memory.insert, Memory.read]
  | cons c m ih =>
    obtain ⟨k, w⟩ := c
    have hk : k ≠ a := ha (k, w) (by simp)
    have ih := ih (fun c hc => ha c (by simp [hc]))
    by_cases h : a < k
    · simp [Memory.insert, h, Memory.read]
    · by_cases hb : b = k
      · simp [Memory.insert, h, Memory.read, hb, hk]
      · simp [Memory.insert, h, Memory.read, hb, ih]

theorem Memory.erase_absent (m : Memory) (a : Nat) : ∀ c ∈ m.erase a, c.1 ≠ a := by
  induction m with
  | nil => simp [Memory.erase]
  | cons c m ih =>
    obtain ⟨k, w⟩ := c
    by_cases h : a = k
    · rw [Memory.erase, if_pos h]; exact ih
    · intro c hc
      simp only [Memory.erase, h, if_false, List.mem_cons] at hc
      rcases hc with rfl | hc
      · exact fun e => h e.symm
      · exact ih c hc

/-- A read after a store, in any memory (R33, R40). -/
theorem Memory.read_write (m : Memory) (a b : Nat) (v : Byte) :
    (m.write a v).read b = if b = a then v else m.read b := by
  unfold Memory.write
  split
  · next h => rw [Memory.read_erase]; split <;> simp [h]
  · rw [Memory.read_insert _ _ _ _ (Memory.erase_absent m a), Memory.read_erase]; split <;> rfl

/-- A read after the stores of a block, in any memory (R33, R35). -/
theorem Memory.read_writeBlock (m : Memory) (a : Nat) (bs : List Byte) (p : Nat) :
    (m.writeBlock a bs).read p =
      if h : a ≤ p ∧ p < a + bs.length then bs[p - a]'(by omega) else m.read p := by
  induction bs generalizing m a with
  | nil =>
    simp [Memory.writeBlock]
  | cons b bs ih =>
    rw [Memory.writeBlock, ih]
    by_cases h1 : a + 1 ≤ p ∧ p < a + 1 + bs.length
    · have h2 : a ≤ p ∧ p < a + (b :: bs).length := by simp; omega
      rw [dif_pos h1, dif_pos h2]
      obtain ⟨k, rfl⟩ : ∃ k, p = a + 1 + k := ⟨p - (a + 1), by omega⟩
      have e1 : a + 1 + k - (a + 1) = k := by omega
      have e2 : a + 1 + k - a = k + 1 := by omega
      simp [e1, e2]
    · rw [dif_neg h1, Memory.read_write]
      by_cases h3 : p = a
      · subst h3; simp
      · have h2 : ¬ (a ≤ p ∧ p < a + (b :: bs).length) := by simp; omega
        rw [dif_neg h2, if_neg h3]

@[simp] theorem Memory.length_readBlock (m : Memory) (a n : Nat) : (m.readBlock a n).length = n := by
  induction n generalizing a with
  | zero => rfl
  | succ n ih => simp [Memory.readBlock, ih]

/-- The k-th byte of a block read is the byte at the k-th address (R35). -/
theorem Memory.getElem_readBlock (m : Memory) (a n k : Nat) (h : k < (m.readBlock a n).length) :
    (m.readBlock a n)[k] = m.read (a + k) := by
  induction n generalizing a k with
  | zero => simp [Memory.readBlock] at h
  | succ n ih =>
    cases k with
    | zero => simp [Memory.readBlock]
    | succ k => simp only [Memory.readBlock, List.getElem_cons_succ]; rw [ih]; congr 1; omega

/-! ## The canonical form -/

@[simp] theorem Memory.wf_nil : Memory.wf [] = true := rfl

theorem Memory.wf_cons (k : Nat) (w : Byte) (m : Memory) :
    Memory.wf ((k, w) :: m) = true ↔
      k < Config.memSize ∧ w ≠ Config.unlistedByte ∧ (∀ c ∈ m, k < c.1) ∧ m.wf = true := by
  simp [Memory.wf, and_assoc]

theorem Memory.mem_erase {m : Memory} {a : Nat} {c : Host.Cell} (h : c ∈ m.erase a) : c ∈ m := by
  induction m with
  | nil => simp [Memory.erase] at h
  | cons d m ih =>
    obtain ⟨k, w⟩ := d
    by_cases hk : a = k
    · simp only [Memory.erase, hk, if_true] at h
      exact List.mem_cons_of_mem _ (ih (hk ▸ h))
    · simp only [Memory.erase, hk, if_false, List.mem_cons] at h
      rcases h with rfl | h
      · simp
      · exact List.mem_cons_of_mem _ (ih h)

theorem Memory.mem_insert {m : Memory} {a : Nat} {v : Byte} {c : Host.Cell} (h : c ∈ m.insert a v) :
    c = (a, v) ∨ c ∈ m := by
  induction m with
  | nil => simpa [Memory.insert] using h
  | cons d m ih =>
    obtain ⟨k, w⟩ := d
    by_cases hk : a < k
    · simpa [Memory.insert, hk] using h
    · simp only [Memory.insert, hk, if_false, List.mem_cons] at h
      rcases h with rfl | h
      · simp
      · rcases ih h with h | h <;> simp [h]

theorem Memory.wf_erase {m : Memory} (hm : m.wf = true) (a : Nat) : (m.erase a).wf = true := by
  induction m with
  | nil => rfl
  | cons d m ih =>
    obtain ⟨k, w⟩ := d
    obtain ⟨h1, h2, h3, h4⟩ := (Memory.wf_cons k w m).1 hm
    by_cases hk : a = k
    · rw [Memory.erase, if_pos hk]; exact ih h4
    · simp only [Memory.erase, hk, if_false]
      exact (Memory.wf_cons ..).2 ⟨h1, h2, fun c hc => h3 c (Memory.mem_erase hc), ih h4⟩

theorem Memory.wf_insert {m : Memory} (hm : m.wf = true) {a : Nat} {v : Byte} (ha : a < Config.memSize)
    (hv : v ≠ Config.unlistedByte) (hne : ∀ c ∈ m, c.1 ≠ a) : (m.insert a v).wf = true := by
  induction m with
  | nil => exact (Memory.wf_cons ..).2 ⟨ha, hv, by simp, rfl⟩
  | cons d m ih =>
    obtain ⟨k, w⟩ := d
    obtain ⟨h1, h2, h3, h4⟩ := (Memory.wf_cons k w m).1 hm
    have hka : k ≠ a := hne (k, w) (by simp)
    by_cases hk : a < k
    · simp only [Memory.insert, hk, if_true]
      refine (Memory.wf_cons ..).2 ⟨ha, hv, ?_, hm⟩
      intro c hc
      rcases List.mem_cons.1 hc with rfl | hc
      · exact hk
      · exact lt_trans hk (h3 c hc)
    · simp only [Memory.insert, hk, if_false]
      refine (Memory.wf_cons ..).2 ⟨h1, h2, ?_, ih h4 (fun c hc => hne c (by simp [hc]))⟩
      intro c hc
      rcases Memory.mem_insert hc with rfl | hc
      · show k < a; omega
      · exact h3 c hc

/-- A store to a valid address keeps the canonical form. -/
theorem Memory.wf_write {m : Memory} (hm : m.wf = true) {a : Nat} (ha : a < Config.memSize) (v : Byte) :
    (m.write a v).wf = true := by
  unfold Memory.write
  split
  · exact Memory.wf_erase hm a
  · next hv => exact Memory.wf_insert (Memory.wf_erase hm a) ha hv (Memory.erase_absent m a)

/-- The stores of a block of valid addresses keep the canonical form. -/
theorem Memory.wf_writeBlock {m : Memory} (hm : m.wf = true) {a : Nat} {bs : List Byte}
    (ha : a + bs.length ≤ Config.memSize) : (m.writeBlock a bs).wf = true := by
  induction bs generalizing m a with
  | nil => exact hm
  | cons b bs ih =>
    simp only [List.length_cons] at ha
    exact ih (Memory.wf_write hm (by omega) b) (by omega)

/-- What a valid block access says of its addresses (R32). -/
theorem blockValid_iff (base n : Nat) : blockValid base n = true ↔ n = 0 ∨ base + n ≤ Config.memSize := by
  simp only [blockValid, Bool.or_eq_true, beq_iff_eq, decide_eq_true_eq]
  omega

end Sys2Proof.Machine
end

