-- ==== Sys2Proof/Laws/Operands.lean ====
section
/-! SUPPORT. The laws of the operand forms and of the flag computations: one lemma that says everything each can do. -/

namespace Sys2Proof.Machine

/-! ## Operands -/

@[simp] theorem zextAddr_toNat (nnn : BitVec 12) : (zextAddr nnn).toNat = nnn.toNat := by
  simp only [zextAddr, BitVec.toNat_setWidth]
  omega

@[simp] theorem zextByte_toNat (v : Byte) : (zextByte v).toNat = v.toNat := by
  simp only [zextByte, BitVec.toNat_setWidth]
  omega

/-- The access of n bytes at `I` is valid exactly when it is empty or ends at 0xFFF or below (R32). -/
theorem indexBlockValid_iff (s : State) (n : Nat) :
    indexBlockValid s n = true ↔ n = 0 ∨ s.index.toNat + n ≤ 4096 := by
  simp [indexBlockValid, blockValid_iff, effectiveAddr]

@[simp] theorem shiftOperand_eq (x y : Reg) (s : State) : shiftOperand x y s = s.reg x := rfl

@[simp] theorem jumpOffset_eq (nnn : BitVec 12) (s : State) : jumpOffset nnn s = s.reg 0 := rfl

@[simp] theorem afterBlock_eq (x : Reg) (s : State) : afterBlock x s = s := rfl

theorem indexPlus_toNat (v : Byte) (s : State) : (indexPlus v s).toNat = (s.index.toNat + v.toNat) % 65536 := by
  simp [indexPlus]

theorem glyphAddr_toNat (v : Byte) : (glyphAddr v).toNat = 0x50 + 5 * v.toNat := by
  have := v.isLt
  simp only [glyphAddr, Config.fontBase, Config.glyphLen, BitVec.toNat_ofNat]
  omega

@[simp] theorem length_bcdDigits (v : Byte) : (bcdDigits v).length = 3 := rfl

theorem mem_regsUpTo (x r : Reg) : r ∈ regsUpTo x ↔ r ≤ x := by simp [regsUpTo]

@[simp] theorem length_regsUpTo (x : Reg) : (regsUpTo x).length = x.val + 1 := by
  revert x; decide

theorem regsUpTo_get (x : Reg) : ∀ k : Fin 16, k ≤ x → (regsUpTo x)[k.val]? = some k := by
  revert x; decide

/-- The k-th byte of a block store is register k (R89). -/
theorem getElem_map_regsUpTo (x : Reg) (f : Reg → Byte) (k : Reg) (hk : k ≤ x)
    (h : k.val < ((regsUpTo x).map f).length) : ((regsUpTo x).map f)[k.val] = f k := by
  have e := regsUpTo_get x k hk
  rw [List.getElem?_eq_some_iff] at e
  obtain ⟨h', e⟩ := e
  simp [e]

/-- Everything a block load does to the registers (R90). -/
theorem loadRegs_reg (rs : List Reg) (s : State) (q : Reg) :
    (loadRegs rs s).reg q = if q ∈ rs then s.mem.read (s.index.toNat + q.val) else s.reg q := by
  induction rs generalizing s with
  | nil => simp [loadRegs]
  | cons r rs ih =>
    rw [loadRegs, ih]
    by_cases h : q = r
    · subst h; simp [effectiveAddr]
    · simp [h]

/-- A block load leaves every element but the registers alone (R90). -/
theorem loadRegs_rest (rs : List Reg) (s : State) : loadRegs rs s = { s with regs := (loadRegs rs s).regs } := by
  induction rs generalizing s with
  | nil => rfl
  | cons r rs ih => rw [loadRegs, ih]; rfl

/-- The least pressed key (R98). -/
theorem firstPressed_eq_some (s : State) (i : Fin 16) :
    firstPressed s = some i ↔ s.keys[i] = true ∧ ∀ j : Fin 16, j < i → s.keys[j] = false := by
  rw [firstPressed, List.find?_eq_some_iff_getElem]
  constructor
  · rintro ⟨h, k, hk, e, hlt⟩
    refine ⟨h, fun j hj => ?_⟩
    have hik : i.val = k := by simpa using (congrArg Fin.val e).symm
    have := hlt j.val (by rw [Fin.lt_def] at hj; omega)
    simpa using this
  · rintro ⟨h, hlt⟩
    refine ⟨h, i.val, by simp, by simp, fun j hj => ?_⟩
    have := hlt ⟨j, by omega⟩ hj
    simpa using this

theorem firstPressed_eq_none (s : State) : firstPressed s = none ↔ ∀ i : Fin 16, s.keys[i] = false := by
  simp [firstPressed]

/-- A byte up to 15 names its key (R96). -/
theorem keyAt_of_lt (s : State) {v : Byte} (h : v.toNat < 16) : keyAt s v = some s.keys[v.toNat] := by
  simp [keyAt, h]

/-- A byte above 15 names no key (R96). -/
theorem keyAt_of_ge (s : State) {v : Byte} (h : 16 ≤ v.toNat) : keyAt s v = none := by
  simp [keyAt, h]

/-! ## Flags -/

theorem flagByte_toNat (c : Bool) : (flagByte c).toNat = if c then 1 else 0 := by cases c <;> rfl

theorem sumOf_toNat (a b : Byte) : (sumOf a b).toNat = (a.toNat + b.toNat) % 256 := by simp [sumOf]

theorem differenceOf_toNat (a b : Byte) : (differenceOf a b).toNat = (a.toNat + 256 - b.toNat) % 256 := by
  simp [differenceOf]

theorem shiftedRight_toNat (v : Byte) : (shiftedRight v).toNat = v.toNat / 2 := by
  have := v.isLt
  simp only [shiftedRight, BitVec.toNat_ofNat]
  omega

theorem shiftedLeft_toNat (v : Byte) : (shiftedLeft v).toNat = v.toNat * 2 % 256 := by simp [shiftedLeft]

/-- The exact computations are the bit-vector ones. -/
theorem sumOf_eq (a b : Byte) : sumOf a b = a + b := by
  apply BitVec.eq_of_toNat_eq; simp [sumOf_toNat]

theorem differenceOf_eq (a b : Byte) : differenceOf a b = a - b := by
  apply BitVec.eq_of_toNat_eq
  rw [differenceOf_toNat, BitVec.toNat_sub]
  have := b.isLt
  congr 1
  omega

/-- Both writes of a flag-writing instruction, on every register: both are computed from the state before them (R58), and
with x = 15 the result stands (R82). -/
theorem writeFlagAndResult_reg (x : Reg) (flag : State → Bool) (result : State → Byte) (s : State) (q : Reg) :
    (writeFlagAndResult x flag result s).reg q =
      if q = x then result s else if q = vf then flagByte (flag s) else s.reg q := by
  simp [writeFlagAndResult, State.setReg_reg]

/-- A flag-writing instruction's writes leave every element but the registers alone (R82). -/
theorem writeFlagAndResult_rest (x : Reg) (flag : State → Bool) (result : State → Byte) (s : State) :
    writeFlagAndResult x flag result s = { s with regs := (writeFlagAndResult x flag result s).regs } := rfl

end Sys2Proof.Machine
end

