-- ==== Sys2Proof/Laws/PerInstr.lean ====
section
/-! SUPPORT. Statements made per instruction. Family FixedBits: the canonical word of an instruction has the fixed bits of its
row of the opcode table (spec/30_encoding.md R49), whatever its operands. -/

namespace Sys2Proof.Laws

/-- The word of `i` has the fixed bits of `i`'s row (R49). -/
def FixedBits.Statement (i : Instr) : Prop := encode i &&& i.opcodeRow.mask = i.opcodeRow.pattern

theorem FixedBits.sys (nnn : BitVec 12) : FixedBits.Statement (.sys nnn) := (formatA_fixed _ _).trans rfl

theorem FixedBits.cls : FixedBits.Statement .cls := rfl

theorem FixedBits.ret : FixedBits.Statement .ret := rfl

theorem FixedBits.jp (nnn : BitVec 12) : FixedBits.Statement (.jp nnn) := (formatA_fixed _ _).trans rfl

theorem FixedBits.call (nnn : BitVec 12) : FixedBits.Statement (.call nnn) := (formatA_fixed _ _).trans rfl

theorem FixedBits.seByte (x : Reg) (kk : Byte) : FixedBits.Statement (.seByte x kk) := (formatXK_fixed _ _ _).trans rfl

theorem FixedBits.sneByte (x : Reg) (kk : Byte) : FixedBits.Statement (.sneByte x kk) := (formatXK_fixed _ _ _).trans rfl

theorem FixedBits.seReg (x : Reg) (y : Reg) : FixedBits.Statement (.seReg x y) := (formatXY_fixed _ _ _ _).trans rfl

theorem FixedBits.ldByte (x : Reg) (kk : Byte) : FixedBits.Statement (.ldByte x kk) := (formatXK_fixed _ _ _).trans rfl

theorem FixedBits.addByte (x : Reg) (kk : Byte) : FixedBits.Statement (.addByte x kk) := (formatXK_fixed _ _ _).trans rfl

theorem FixedBits.ldReg (x : Reg) (y : Reg) : FixedBits.Statement (.ldReg x y) := (formatXY_fixed_low _ _ _ _).trans rfl

theorem FixedBits.orReg (x : Reg) (y : Reg) : FixedBits.Statement (.orReg x y) := (formatXY_fixed_low _ _ _ _).trans rfl

theorem FixedBits.andReg (x : Reg) (y : Reg) : FixedBits.Statement (.andReg x y) := (formatXY_fixed_low _ _ _ _).trans rfl

theorem FixedBits.xorReg (x : Reg) (y : Reg) : FixedBits.Statement (.xorReg x y) := (formatXY_fixed_low _ _ _ _).trans rfl

theorem FixedBits.addReg (x : Reg) (y : Reg) : FixedBits.Statement (.addReg x y) := (formatXY_fixed_low _ _ _ _).trans rfl

theorem FixedBits.subReg (x : Reg) (y : Reg) : FixedBits.Statement (.subReg x y) := (formatXY_fixed_low _ _ _ _).trans rfl

theorem FixedBits.shr (x : Reg) (y : Reg) : FixedBits.Statement (.shr x y) := (formatXY_fixed_low _ _ _ _).trans rfl

theorem FixedBits.subnReg (x : Reg) (y : Reg) : FixedBits.Statement (.subnReg x y) := (formatXY_fixed_low _ _ _ _).trans rfl

theorem FixedBits.shl (x : Reg) (y : Reg) : FixedBits.Statement (.shl x y) := (formatXY_fixed_low _ _ _ _).trans rfl

theorem FixedBits.sneReg (x : Reg) (y : Reg) : FixedBits.Statement (.sneReg x y) := (formatXY_fixed _ _ _ _).trans rfl

theorem FixedBits.ldI (nnn : BitVec 12) : FixedBits.Statement (.ldI nnn) := (formatA_fixed _ _).trans rfl

theorem FixedBits.jpV0 (nnn : BitVec 12) : FixedBits.Statement (.jpV0 nnn) := (formatA_fixed _ _).trans rfl

theorem FixedBits.rnd (x : Reg) (kk : Byte) : FixedBits.Statement (.rnd x kk) := (formatXK_fixed _ _ _).trans rfl

theorem FixedBits.drw (x : Reg) (y : Reg) (n : Fin 16) : FixedBits.Statement (.drw x y n) := (formatXY_fixed _ _ _ _).trans rfl

theorem FixedBits.skp (x : Reg) : FixedBits.Statement (.skp x) := (formatX_fixed _ _ _).trans rfl

theorem FixedBits.sknp (x : Reg) : FixedBits.Statement (.sknp x) := (formatX_fixed _ _ _).trans rfl

theorem FixedBits.ldVxDt (x : Reg) : FixedBits.Statement (.ldVxDt x) := (formatX_fixed _ _ _).trans rfl

theorem FixedBits.ldVxK (x : Reg) : FixedBits.Statement (.ldVxK x) := (formatX_fixed _ _ _).trans rfl

theorem FixedBits.ldDtVx (x : Reg) : FixedBits.Statement (.ldDtVx x) := (formatX_fixed _ _ _).trans rfl

theorem FixedBits.ldStVx (x : Reg) : FixedBits.Statement (.ldStVx x) := (formatX_fixed _ _ _).trans rfl

theorem FixedBits.addI (x : Reg) : FixedBits.Statement (.addI x) := (formatX_fixed _ _ _).trans rfl

theorem FixedBits.ldF (x : Reg) : FixedBits.Statement (.ldF x) := (formatX_fixed _ _ _).trans rfl

theorem FixedBits.ldB (x : Reg) : FixedBits.Statement (.ldB x) := (formatX_fixed _ _ _).trans rfl

theorem FixedBits.ldMemVx (x : Reg) : FixedBits.Statement (.ldMemVx x) := (formatX_fixed _ _ _).trans rfl

theorem FixedBits.ldVxMem (x : Reg) : FixedBits.Statement (.ldVxMem x) := (formatX_fixed _ _ _).trans rfl

end Sys2Proof.Laws
end

