-- ==== Sys2Proof/Laws/Sprite.lean ====
section
/-! SUPPORT. The laws of the pixel-collision XOR unit: which cells a sprite covers, that it covers none twice (R93 corner
case (b)), and what toggling a list of distinct cells does. -/

namespace Sys2Proof.Machine

/-- The edge policy is WRAP: every pixel has a cell (R93). -/
theorem cellAt_eq (px py : Nat) : cellAt px py = some (Fin.ofNat 2048 (py % 32 * 64 + px % 64)) := rfl

theorem cellAt_val (px py : Nat) (c : CellIdx) : cellAt px py = some c ↔ c.val = py % 32 * 64 + px % 64 := by
  rw [cellAt_eq, Option.some_inj, Fin.ext_iff, Fin.val_ofNat, Nat.mod_eq_of_lt (by omega)]
  exact eq_comm

theorem mem_rowCells (x0 y : Nat) (b : Byte) (c : CellIdx) :
    c ∈ rowCells x0 y b ↔ ∃ col, col < 8 ∧ b.getLsbD (7 - col) = true ∧ c.val = y % 32 * 64 + (x0 + col) % 64 := by
  simp only [rowCells, List.mem_filterMap, List.mem_range]
  constructor
  · rintro ⟨col, h, e⟩
    split at e
    · next hb => exact ⟨col, h, hb, (cellAt_val _ _ _).1 e⟩
    · cases e
  · rintro ⟨col, h, hb, e⟩
    exact ⟨col, h, by rw [if_pos hb]; exact (cellAt_val _ _ _).2 e⟩

/-- The cells a sprite covers with 1 bits (R93, R95). -/
theorem mem_spriteCells (x0 y0 : Nat) (rows : List Byte) (c : CellIdx) :
    c ∈ spriteCells x0 y0 rows ↔
      ∃ r, ∃ h : r < rows.length, ∃ col, col < 8 ∧ rows[r].getLsbD (7 - col) = true ∧
        c.val = (y0 + r) % 32 * 64 + (x0 + col) % 64 := by
  induction rows generalizing y0 with
  | nil => simp [spriteCells]
  | cons b bs ih =>
    rw [spriteCells, List.mem_append, ih, mem_rowCells]
    constructor
    · rintro (⟨col, h⟩ | ⟨r, hr, col, h1, h2, h3⟩)
      · exact ⟨0, by simp, col, h⟩
      · exact ⟨r + 1, by simpa using hr, col, h1, by simpa using h2, by rw [h3]; congr 3; omega⟩
    · rintro ⟨r, hr, col, h1, h2, h3⟩
      cases r with
      | zero => exact .inl ⟨col, h1, by simpa using h2, by simpa using h3⟩
      | succ r =>
        exact .inr ⟨r, by simpa using hr, col, h1, by simpa using h2, by rw [h3]; congr 3; omega⟩

theorem nodup_rowCells (x0 y : Nat) (b : Byte) : (rowCells x0 y b).Nodup := by
  unfold rowCells
  rw [List.Nodup, List.pairwise_filterMap]
  refine List.Pairwise.imp_of_mem ?_ List.nodup_range
  intro i j hi hj hij c hc d hd e
  rw [List.mem_range] at hi hj
  split at hc
  · split at hd
    · have h1 := (cellAt_val _ _ _).1 hc
      have h2 := (cellAt_val _ _ _).1 hd
      rw [e] at h1
      omega
    · cases hd
  · cases hc

/-- No cell is covered twice by one sprite of at most 32 rows (R93). -/
theorem nodup_spriteCells (x0 y0 : Nat) (rows : List Byte) (h : rows.length ≤ 32) :
    (spriteCells x0 y0 rows).Nodup := by
  induction rows generalizing y0 with
  | nil => simp [spriteCells]
  | cons b bs ih =>
    simp only [List.length_cons] at h
    rw [spriteCells, List.nodup_append]
    refine ⟨nodup_rowCells x0 y0 b, ih (y0 + 1) (by omega), ?_⟩
    rintro c hc d hd rfl
    obtain ⟨col, _, _, e⟩ := (mem_rowCells ..).1 hc
    obtain ⟨r, hr, col', _, _, e'⟩ := (mem_spriteCells ..).1 hd
    omega

/-- What toggling distinct cells does: each listed cell is inverted, no other changes, and a collision is a listed cell
that was lit (R93). -/
theorem foldl_toggleCell (cs : List CellIdx) (v : Video) (b : Bool) (h : cs.Nodup) :
    (∀ c : CellIdx, (cs.foldl toggleCell (v, b)).1[c] = if c ∈ cs then !v[c] else v[c]) ∧
      ((cs.foldl toggleCell (v, b)).2 = true ↔ b = true ∨ ∃ c ∈ cs, v[c] = true) := by
  induction cs generalizing v b with
  | nil => simp
  | cons d cs ih =>
    obtain ⟨hd, hcs⟩ := List.nodup_cons.1 h
    have hset : ∀ c : CellIdx, (v.set d (!v[d]))[c] = if c = d then !v[d] else v[c] := by
      intro c
      by_cases e : c = d
      · subst e; simp
      · have e' : d.val ≠ c.val := fun k => e (Fin.ext k.symm)
        simp [e, Vector.getElem_set_ne _ _ e']
    obtain ⟨h1, h2⟩ := ih (v.set d (!v[d])) (b || v[d]) hcs
    rw [List.foldl_cons, show toggleCell (v, b) d = (v.set d (!v[d]), b || v[d]) from rfl]
    constructor
    · intro c
      rw [h1, hset]
      by_cases e : c = d
      · subst e; simp [hd]
      · simp [e]
    · rw [h2]
      have : (∃ c ∈ cs, (v.set d (!v[d]))[c] = true) ↔ ∃ c ∈ cs, v[c] = true := by
        refine exists_congr fun c => and_congr_right fun hc => ?_
        have hne : c ≠ d := fun e => hd (e ▸ hc)
        rw [hset, if_neg hne]
      rw [this]
      simp [or_assoc]

end Sys2Proof.Machine
end

