-- ==== Sys2Proof/Laws/Step.lean ====
section
/-! SUPPORT. Inversion of one engine step: everything a step with a next state can have done, said once. -/

namespace Sys2Proof.Machine

/-- An instruction with a next state has raised a fault or left the latch as it was (R111). -/
theorem exec_raises_or_keeps_latch {i : Instr} {s t : State} (h : exec i s = .next t) :
    (∃ c, raise c s = .next t) ∨ t.latch = s.latch := by
  cases i <;> simp only [exec] at h
  case ret =>
    unfold execRet at h; split at h
    · exact .inl ⟨_, h⟩
    · split at h
      · cases h; right; rfl
      · cases h
  case call nnn =>
    unfold execCall at h; split at h
    · exact .inl ⟨_, h⟩
    · cases h; right; rfl
  case drw =>
    unfold execDrw at h; split at h
    · cases h; right; rfl
    · exact .inl ⟨_, h⟩
  case ldB =>
    unfold execLdB at h; split at h
    · cases h; right; rfl
    · exact .inl ⟨_, h⟩
  case ldMemVx =>
    unfold execLdMemVx at h; split at h
    · cases h; right; rfl
    · exact .inl ⟨_, h⟩
  case ldVxMem =>
    unfold execLdVxMem at h; split at h
    · cases h; right; rw [afterBlock_eq, loadRegs_rest]
    · exact .inl ⟨_, h⟩
  case skp =>
    unfold execSkp at h; split at h
    · cases h; right; simp
    · exact .inl ⟨_, h⟩
  case sknp =>
    unfold execSknp at h; split at h
    · cases h; right; simp
    · exact .inl ⟨_, h⟩
  case ldVxK =>
    unfold execLdVxK at h; split at h <;> (cases h; right; rfl)
  case seByte => cases h; right; simp
  case sneByte => cases h; right; simp
  case seReg => cases h; right; simp
  case sneReg => cases h; right; simp
  all_goals (cases h; right; rfl)

/-- A step with a next state (R57): the latch was clear, and it was a fetch fault, the instruction fetched, or the advance
over an unmatched word. -/
theorem step_cases {s t : State} (h : step s = .next t) :
    s.latch = none ∧
      ((fetchWord s = none ∧ t = s.setLatch (some .fetchOutOfRange)) ∨
        (∃ raw i, fetchWord s = some raw ∧ decodeWord raw = .ok i ∧ exec i s.advance = .next t) ∨
        ∃ raw r, fetchWord s = some raw ∧ decodeWord raw = .error r ∧ t = s.advance) := by
  unfold step at h
  split at h
  · cases h
  · next hl =>
    refine ⟨hl, ?_⟩
    split at h
    · next hf => cases h; exact .inl ⟨hf, rfl⟩
    · next raw hf =>
      split at h
      · next i hd => exact .inr (.inl ⟨raw, i, hf, hd, h⟩)
      · next r hd => cases h; exact .inr (.inr ⟨raw, r, hf, hd, rfl⟩)

/-- What a fetch reads (R34, R57). -/
theorem fetchWord_eq_some (s : State) (raw : Word) :
    fetchWord s = some raw ↔
      s.pc.toNat ≤ 0xFFE ∧ raw = s.mem.read s.pc.toNat ++ s.mem.read (s.pc.toNat + 1) := by
  unfold fetchWord wordOfBytes
  simp only [Config.memSize]
  split
  · next hp => simp only [Option.some.injEq]; exact ⟨fun e => ⟨by omega, e.symm⟩, fun e => e.2.symm⟩
  · next hp => simp only [reduceCtorEq, false_iff, not_and]; intro hq; omega

end Sys2Proof.Machine
end

