-- ==== Sys2Proof/Machine/Assembly.lean ====
section
/-! DEFINITION. The assembly spelling of an instruction (spec/30_encoding.md R55). Nothing the machine does depends on it.
DESIGN CHOICE, safe (log entry 25): R55 fixes no radix for a literal. The model writes bytes and addresses in hexadecimal with
every digit of their width, and nibbles in decimal. -/

namespace Sys2Proof.Machine

/-- One hexadecimal digit. -/
def hexDigit (d : Fin 16) : String :=
  ["0", "1", "2", "3", "4", "5", "6", "7", "8", "9", "A", "B", "C", "D", "E", "F"][d.val]

/-- A register: V0 to VF (R55). -/
def asmReg (r : Reg) : String := "V" ++ hexDigit r

/-- A byte literal (R55). DESIGN CHOICE, log entry 25: two hexadecimal digits after 0x. -/
def asmByte (v : Byte) : String :=
  "0x" ++ hexDigit (v.extractLsb' 4 4).toFin ++ hexDigit (v.extractLsb' 0 4).toFin

/-- An address literal (R55). DESIGN CHOICE, log entry 25: three hexadecimal digits after 0x. -/
def asmAddr (a : BitVec 12) : String :=
  "0x" ++ hexDigit (a.extractLsb' 8 4).toFin ++ hexDigit (a.extractLsb' 4 4).toFin ++ hexDigit (a.extractLsb' 0 4).toFin

/-- A nibble literal (R55). DESIGN CHOICE, log entry 25: R55 fixes no radix, and the model writes it in decimal, which fits the
spec's one example, `DRW V0, V1, 5` (95_test_vectors.md P3), and its notation, where hexadecimal carries 0x (00_scope.md
section 6). -/
def asmNibble (n : Fin 16) : String :=
  ["0", "1", "2", "3", "4", "5", "6", "7", "8", "9", "10", "11", "12", "13", "14", "15"][n.val]

/-- A mnemonic and its operands: `MNEMONIC operand, operand` (R55). -/
def asmLine (mnemonic : String) : List String → String
  | [] => mnemonic
  | a :: rest => rest.foldl (fun line b => line ++ ", " ++ b) (mnemonic ++ " " ++ a)

/-- The spelling of an instruction, by the mnemonics of R49's table (R55, decision D26). -/
def asmText (i : Instr) : String :=
  match i with
  | .sys nnn => asmLine "SYS" [asmAddr nnn]
  | .cls => asmLine "CLS" []
  | .ret => asmLine "RET" []
  | .jp nnn => asmLine "JP" [asmAddr nnn]
  | .call nnn => asmLine "CALL" [asmAddr nnn]
  | .seByte x kk => asmLine "SE" [asmReg x, asmByte kk]
  | .sneByte x kk => asmLine "SNE" [asmReg x, asmByte kk]
  | .seReg x y => asmLine "SE" [asmReg x, asmReg y]
  | .ldByte x kk => asmLine "LD" [asmReg x, asmByte kk]
  | .addByte x kk => asmLine "ADD" [asmReg x, asmByte kk]
  | .ldReg x y => asmLine "LD" [asmReg x, asmReg y]
  | .orReg x y => asmLine "OR" [asmReg x, asmReg y]
  | .andReg x y => asmLine "AND" [asmReg x, asmReg y]
  | .xorReg x y => asmLine "XOR" [asmReg x, asmReg y]
  | .addReg x y => asmLine "ADD" [asmReg x, asmReg y]
  | .subReg x y => asmLine "SUB" [asmReg x, asmReg y]
  | .shr x _ => asmLine "SHR" [asmReg x]
  | .subnReg x y => asmLine "SUBN" [asmReg x, asmReg y]
  | .shl x _ => asmLine "SHL" [asmReg x]
  | .sneReg x y => asmLine "SNE" [asmReg x, asmReg y]
  | .ldI nnn => asmLine "LD" ["I", asmAddr nnn]
  | .jpV0 nnn => asmLine "JP" ["V0", asmAddr nnn]
  | .rnd x kk => asmLine "RND" [asmReg x, asmByte kk]
  | .drw x y n => asmLine "DRW" [asmReg x, asmReg y, asmNibble n]
  | .skp x => asmLine "SKP" [asmReg x]
  | .sknp x => asmLine "SKNP" [asmReg x]
  | .ldVxDt x => asmLine "LD" [asmReg x, "DT"]
  | .ldVxK x => asmLine "LD" [asmReg x, "K"]
  | .ldDtVx x => asmLine "LD" ["DT", asmReg x]
  | .ldStVx x => asmLine "LD" ["ST", asmReg x]
  | .addI x => asmLine "ADD" ["I", asmReg x]
  | .ldF x => asmLine "LD" ["F", asmReg x]
  | .ldB x => asmLine "LD" ["B", asmReg x]
  | .ldMemVx x => asmLine "LD" ["[I]", asmReg x]
  | .ldVxMem x => asmLine "LD" [asmReg x, "[I]"]

end Sys2Proof.Machine
end

