-- ==== Sys2Proof/Tests/Slice0.lean ====
section
/-! SUPPORT. Tests of this sitting: words from the encodings of R49, one step an instruction from the vectors of
spec/95_test_vectors.md (the vector is named), the checks of WellFormed, and a witness for the hypotheses of each
statement. -/

namespace Sys2Proof.Tests

open Sys2Proof.Machine

/-! ## Decoding: a word for every constructor, written out from its row of R49 -/

theorem test_decode_family_0 :
    decodeWord 0b0000000100100011#16 = .ok (.sys 0x123) ∧ decodeWord 0b0000000011100000#16 = .ok .cls ∧
    decodeWord 0b0000000011101110#16 = .ok .ret := by decide

theorem test_decode_families_1_to_7 :
    decodeWord 0b0001001000000100#16 = .ok (.jp 0x204) ∧ decodeWord 0b0010001100000000#16 = .ok (.call 0x300) ∧
    decodeWord 0b0011101000010010#16 = .ok (.seByte 0xA 0x12) ∧ decodeWord 0b0100001000000101#16 = .ok (.sneByte 2 5) ∧
    decodeWord 0b0101000100100000#16 = .ok (.seReg 1 2) ∧ decodeWord 0b0110000011001101#16 = .ok (.ldByte 0 0xCD) ∧
    decodeWord 0b0111000111111111#16 = .ok (.addByte 1 0xFF) := by decide

theorem test_decode_family_8 :
    decodeWord 0b1000000100100000#16 = .ok (.ldReg 1 2) ∧ decodeWord 0b1000000100100001#16 = .ok (.orReg 1 2) ∧
    decodeWord 0b1000000100100010#16 = .ok (.andReg 1 2) ∧ decodeWord 0b1000000100100011#16 = .ok (.xorReg 1 2) ∧
    decodeWord 0b1000101010110100#16 = .ok (.addReg 0xA 0xB) ∧ decodeWord 0b1000000000010101#16 = .ok (.subReg 0 1) ∧
    decodeWord 0b1000000100100110#16 = .ok (.shr 1 2) ∧ decodeWord 0b1000000000010111#16 = .ok (.subnReg 0 1) ∧
    decodeWord 0b1000000100101110#16 = .ok (.shl 1 2) := by decide

theorem test_decode_families_9_to_D :
    decodeWord 0b1001000100100000#16 = .ok (.sneReg 1 2) ∧ decodeWord 0b1010001100000000#16 = .ok (.ldI 0x300) ∧
    decodeWord 0b1011001100000000#16 = .ok (.jpV0 0x300) ∧ decodeWord 0b1100000100001111#16 = .ok (.rnd 1 0x0F) ∧
    decodeWord 0b1101000100100101#16 = .ok (.drw 1 2 5) := by decide

theorem test_decode_families_E_F :
    decodeWord 0b1110000110011110#16 = .ok (.skp 1) ∧ decodeWord 0b1110000110100001#16 = .ok (.sknp 1) ∧
    decodeWord 0b1111000100000111#16 = .ok (.ldVxDt 1) ∧ decodeWord 0b1111000100001010#16 = .ok (.ldVxK 1) ∧
    decodeWord 0b1111000100010101#16 = .ok (.ldDtVx 1) ∧ decodeWord 0b1111000100011000#16 = .ok (.ldStVx 1) ∧
    decodeWord 0b1111000100011110#16 = .ok (.addI 1) ∧ decodeWord 0b1111000100101001#16 = .ok (.ldF 1) ∧
    decodeWord 0b1111000100110011#16 = .ok (.ldB 1) ∧ decodeWord 0b1111000101010101#16 = .ok (.ldMemVx 1) ∧
    decodeWord 0b1111000101100101#16 = .ok (.ldVxMem 1) := by decide

/-- S12: the keys of five words; E1, E3, E5: unmatched words; E6 to E9: aliases. -/
theorem test_keys_aliases_unmatched :
    [0xF155#16, 0xE19E#16, 0x8AB4#16, 0x3A12#16, 0xD125#16].map dispatchKey =
      [0xF055#16, 0xE09E#16, 0x8004#16, 0x3000#16, 0xD000#16] ∧
    [0x8128, 0xE100, 0xF000].map (decodeTableWord 16) = [none, none, none] ∧
    [0x0AE0, 0x07EE, 0x5121, 0x912F].map (decodeTableWord 16) =
      [some .cls, some .ret, some (.seReg 1 2), some (.sneReg 1 2)] ∧
    decodeBytes [0x80#8] = .error .truncated := by decide

/-- The encoder on words of R49, and its bytes first byte high (R34). -/
theorem test_encode :
    [Instr.cls, .jp 0x204, .addReg 0 1, .drw 0 1 5, .ldVxMem 2].map encode =
      [0x00E0#16, 0x1204#16, 0x8014#16, 0xD015#16, 0xF265#16] ∧ encodeBytes (.call 0x20A) = [0x22#8, 0x0A#8] := by decide

/-- Spellings of R55: registers, literals and the implied operands. -/
theorem test_asmText :
    [Instr.cls, .addByte 1 0xFF, .ldMemVx 15, .jpV0 0x30A, .drw 0 1 5, .shr 2 7].map asmText =
      ["CLS", "ADD V1, 0xFF", "LD [I], VF", "JP V0, 0x30A", "DRW V0, V1, 5", "SHR V2"] := by decide +kernel

/-! ## WellFormed: its one check refuses what is CLS or RET -/

theorem test_wellformed_refuses_sys_as_cls : (Instr.sys 0x0E0).wellFormed = false := by decide
theorem test_wellformed_refuses_sys_as_ret : (Instr.sys 0xAEE).wellFormed = false := by decide
theorem test_wellformed_accepts_sys : (Instr.sys 0x123).wellFormed = true := by decide

/-! ## One step -/

/-- The next state, if there is one. -/
def nextOf (o : Host.Outcome State Fault Refusal) : Option State :=
  match o with
  | .next t => some t
  | .fault _ => none
  | .refused _ => none

/-- One engine step from a state with a word placed at `PC`. -/
def run1 (w : Nat) (s : State) : Option State := nextOf (step (s.withFetchWord 16 w))

/-- The reset state with some registers set. -/
def withRegs (rs : List (Reg × Byte)) : State := rs.foldl (fun s p => s.setReg p.1 p.2) State.reset

/-- `PC` and a list of registers after the step. -/
def regsAfter (w : Nat) (s : State) (rs : List Reg) : Option (Word × List Byte) :=
  (run1 w s).map (fun t => (t.pc, rs.map t.reg))

theorem test_T1_sys : regsAfter 0x0123 State.reset [0] = some (0x202, [0]) := by decide
theorem test_E1_unmatched : regsAfter 0x8128 (withRegs [(1, 0x33)]) [1] = some (0x202, [0x33]) := by decide
theorem test_T9_ret : ((run1 0x00EE ((State.reset.setSp 2).setStackEntry 1 0xABC)).map fun t => (t.sp, t.pc, t.stack[1])) =
    some (1, 0xABC, 0xABC) := by decide
theorem test_T8_ret_underflow : ((run1 0x00EE State.reset).map fun t => (t.latch, t.pc)) =
    some (some .stackUnderflow, 0x200) := by decide
theorem test_T3_jp : regsAfter 0x1ABC State.reset [] = some (0xABC, []) := by decide
theorem test_T6_call : ((run1 0x2300 (State.reset.setSp 15)).map fun t => (t.stack[15], t.sp, t.pc)) =
    some (0x202, 16, 0x300) := by decide
theorem test_T7_call_overflow : ((run1 0x2300 (State.reset.setSp 16)).map fun t => (t.latch, t.pc, t.sp)) =
    some (some .stackOverflow, 0x200, 16) := by decide
theorem test_T11_seByte : regsAfter 0x3100 (withRegs [(1, 1)]) [] = some (0x202, []) := by decide
theorem test_T13_sneByte : regsAfter 0x4205 (withRegs [(2, 6)]) [] = some (0x204, []) := by decide
theorem test_T15_seReg : regsAfter 0x5120 (withRegs [(1, 7), (2, 8)]) [] = some (0x202, []) := by decide
theorem test_T17_sneReg : regsAfter 0x9120 (withRegs [(1, 7), (2, 8)]) [] = some (0x204, []) := by decide
theorem test_T19_jpV0 : regsAfter 0xBFFF (withRegs [(0, 0xFF)]) [] = some (0x10FE, []) := by decide
theorem test_A2_ldByte : regsAfter 0x6F07 State.reset [15] = some (0x202, [7]) := by decide
theorem test_A4_addByte : regsAfter 0x7101 (withRegs [(1, 0xFF)]) [1, 15] = some (0x202, [0, 0]) := by decide
theorem test_A6_ldReg : regsAfter 0x8120 (withRegs [(2, 0x3C)]) [1, 2] = some (0x202, [0x3C, 0x3C]) := by decide
theorem test_A7_orReg : regsAfter 0x8121 (withRegs [(1, 0xF0), (2, 0x0F), (15, 1)]) [1, 15] =
    some (0x202, [0xFF, 1]) := by decide
theorem test_A8_andReg : regsAfter 0x8122 (withRegs [(1, 0xF5), (2, 0x3C)]) [1] = some (0x202, [0x34]) := by decide
theorem test_A9_xorReg : regsAfter 0x8123 (withRegs [(1, 0xFF), (2, 0x0F)]) [1] = some (0x202, [0xF0]) := by decide
theorem test_A11_addReg : regsAfter 0x8014 (withRegs [(0, 0xC8), (1, 0x64)]) [0, 15] = some (0x202, [0x2C, 1]) := by decide
theorem test_A16_addReg_into_vf : regsAfter 0x8F14 (withRegs [(15, 0xF0), (1, 0x20)]) [15] = some (0x202, [0x10]) := by
  decide
theorem test_A18_subReg : regsAfter 0x8015 (withRegs [(0, 0x0A), (1, 0x0C)]) [0, 15] = some (0x202, [0xFE, 0]) := by decide
theorem test_A19_subReg_equal : regsAfter 0x8015 (withRegs [(0, 5), (1, 5)]) [0, 15] = some (0x202, [0, 1]) := by decide
theorem test_A30_shr : regsAfter 0x8126 (withRegs [(1, 4), (2, 0xFF)]) [1, 2, 15] = some (0x202, [2, 0xFF, 0]) := by decide
theorem test_A24_subnReg : regsAfter 0x8017 (withRegs [(0, 0x0A), (1, 0x0C)]) [0, 15] = some (0x202, [2, 1]) := by decide
theorem test_A32_shl : regsAfter 0x810E (withRegs [(1, 0x81)]) [1, 15] = some (0x202, [2, 1]) := by decide
theorem test_A36_rnd_masks_a_given_byte : (randomAnd 0xA7 1 0x0F State.reset).reg 1 = 7 := by decide
theorem test_rnd_counts_its_draw : ((run1 0xC10F State.reset).map fun t => (t.draws, t.pc)) = some (1, 0x202) := by decide
theorem test_M1_ldI : ((run1 0xA300 State.reset).map (·.index)) = some 0x300 := by decide
theorem test_M5_addI_wraps : ((run1 0xF01E ((withRegs [(0, 1)]).setIndex 0xFFFF)).map (·.index)) = some 0 := by decide
theorem test_M9_ldF : ((run1 0xF029 (withRegs [(0, 0xFF)])).map (·.index)) = some 0x54B := by decide
theorem test_M14_ldB : ((run1 0xF033 ((withRegs [(0, 0xFF)]).setIndex 0xFFD)).map fun t => t.mem.readBlock 0xFFD 3) =
    some [2, 5, 5] := by decide
theorem test_M15_ldB_out_of_range : ((run1 0xF033 ((withRegs [(0, 0xFF)]).setIndex 0xFFE)).map fun t =>
    (t.latch, t.pc, t.mem.readBlock 0xFFE 2)) = some (some .dataOutOfRange, 0x200, [0, 0]) := by decide
theorem test_S8_ldMemVx : ((run1 0xF255 ((withRegs [(0, 5), (1, 6), (2, 7), (3, 9)]).setIndex 0x400)).map fun t =>
    (t.mem.readBlock 0x400 4, t.index)) = some ([5, 6, 7, 0], 0x400) := by decide
theorem test_M20_ldVxMem : ((run1 0xF265 (((withRegs [(3, 0x77)]).setIndex 0x300).setMem
    (Memory.writeBlock [] 0x300 [2, 0, 5, 9]))).map fun t => ([0, 1, 2, 3].map t.reg, t.index)) =
    some ([2, 0, 5, 0x77], 0x300) := by decide
theorem test_V2_cls : ((run1 0x00E0 (State.reset.setVideo (State.reset.video.set 0 true))).map fun t =>
    (t.video[0], t.dirty)) = some (false, true) := by decide
theorem test_V9_drw : ((run1 0xD011 ((State.reset.setIndex 0xFFF).setMem [(0xFFF, 0x81)])).map fun t =>
    ((List.range 9).map (fun c => t.video[c]?.getD false), t.reg 15, t.dirty)) =
    some ([true, false, false, false, false, false, false, true, false], 0, true) := by decide
theorem test_V8_drw_of_height_0 : ((run1 0xD010 ((withRegs [(15, 1)]).setIndex 0xFFFF)).map fun t =>
    (t.reg 15, t.dirty, t.latch)) = some (0, true, none) := by decide
theorem test_K1_skp : regsAfter 0xE19E ((withRegs [(1, 7)]).setKeys (State.reset.keys.set 7 true)) [] = some (0x204, []) := by
  decide
theorem test_K7_sknp_out_of_range : ((run1 0xE0A1 (withRegs [(0, 0xFF)])).map fun t => (t.latch, t.pc)) =
    some (some .keyIndexOutOfRange, 0x200) := by decide
theorem test_K9_ldVxK : regsAfter 0xF10A (State.reset.setKeys ((State.reset.keys.set 4 true).set 15 true)) [1] =
    some (0x202, [4]) := by decide
theorem test_K8_ldVxK_waits : regsAfter 0xF10A State.reset [1] = some (0x200, [0]) := by decide
theorem test_K11_ldVxDt : regsAfter 0xF107 (State.reset.setDelayTimer 3) [1] = some (0x202, [3]) := by decide
theorem test_K12_ldDtVx : ((run1 0xF015 (withRegs [(0, 0x3C)])).map (·.delayTimer)) = some 0x3C := by decide
theorem test_K13_ldStVx : ((run1 0xF018 (withRegs [(0, 2)])).map (·.soundTimer)) = some 2 := by decide

/-! ## Fetch, faults and host events -/

theorem test_E12_fetch_fault : ((nextOf (step (State.reset.setPc 0xFFF))).map fun t => (t.latch, t.pc)) =
    some (some .fetchOutOfRange, 0xFFF) := by decide
theorem test_E13_halted : nextOf (step (State.reset.setLatch (some .stackOverflow))) = none := by decide
theorem test_K15_tick : ((nextOf (hostEvent .timerTick (State.reset.setSoundTimer 1))).map fun t =>
    (t.delayTimer, t.soundTimer)) = some (0, 0) := by decide
theorem test_font_glyph_A : (nextOf (hostEvent (.loadFont Config.defaultFont) State.reset)).map
    (fun t => t.mem.readBlock 0x082 5) = some [0xF0, 0x90, 0xF0, 0x90, 0x90] := by decide +kernel
/-- R29: a store and its `I` are there for the host to observe. -/
theorem test_hostView_reads_memory_and_index :
    ((hostView ((State.reset.setIndex 0x300).setMem [(0x300, 7)])).mem, (hostView (State.reset.setIndex 0x300)).index) = ([(0x300, 7)], 0x300) := by
  decide
theorem test_reset_memory_is_canonical : State.reset.mem.wf = true := by decide
theorem test_memory_forgets_zero : Memory.write (Memory.write [] 5 7) 5 0 = [] := by decide

/-! ## Witnesses: for each statement with hypotheses, values that meet them, each clause at the ends of its range -/

/-- `SP` = n with the reset state otherwise. -/
def atDepth (n : Nat) : State := State.reset.setSp (BitVec.ofNat 8 n)

/-- `I` = n with the reset state otherwise. -/
def atIndex (n : Nat) : State := State.reset.setIndex (BitVec.ofNat 16 n)

theorem witness_DecodeOfEncodeIsTheInstruction :
    [Instr.sys 0x0DF, .sys 0xFFF, .drw 15 0 15, .shl 15 15].all Instr.wellFormed = true := by decide
theorem witness_DecodedWordIsItsEncodingButForIgnoredBits :
    decodeWord 0x0AE0 = .ok .cls ∧ encode .cls = 0x0AE0 &&& Instr.cls.opcodeRow.care := by decide
theorem witness_RowIsSelectedByItsMaskAndMatch :
    (∃ i, decodeWord 0x00DF = .ok i ∧ i.opcodeRow = (Instr.sys 0).opcodeRow) ∧
    ¬ (∃ i, decodeWord 0x00E0 = .ok i ∧ i.opcodeRow = (Instr.sys 0).opcodeRow) :=
  ⟨⟨.sys 0x0DF, by decide⟩, fun ⟨i, h, h'⟩ => by
    have : i = .cls := by injection h with h; exact h.symm
    subst this; exact absurd h' (by decide)⟩
theorem witness_DispatchKeyKeepsTheNibblesOfItsFamily :
    dispatchKey 0x8AB4 = dispatchKey 0x8014 ∧ dispatchKey 0xF000 = dispatchKey 0xFF00 ∧
    [0x0123, 0xE19E, 0xF155, 0x8AB4, 0x3A12, 0xDFFF].map (fun raw => (BitVec.ofNat 16 raw).toNat / 4096) =
      [0x0, 0xE, 0xF, 0x8, 0x3, 0xD] := by decide
theorem witness_UnmatchedWordsAreTheListed :
    [0x8008#16, 0x8FFF#16, 0xE09D#16, 0xEFA2#16, 0xF000#16, 0xFFFF#16].map decodeWord =
      [0x8008#16, 0x8FFF#16, 0xE09D#16, 0xEFA2#16, 0xF000#16, 0xFFFF#16].map (fun r => .error (.unmatched r)) := by decide

/-- The reset state with a word at the highest address a fetch can read from. -/
def atTop (w : Nat) : State := (State.reset.setPc 0xFFE).withFetchWord 16 w

theorem witness_StepRunsTheDecodedInstruction :
    (atTop 0x8014).latch = none ∧ (atTop 0x8014).pc.toNat ≤ 0xFFE ∧
    decodeWord ((atTop 0x8014).mem.read 0xFFE ++ (atTop 0x8014).mem.read 0xFFF) = .ok (.addReg 0 1) := by decide
theorem witness_UnmatchedWordOnlyAdvancesPc :
    (atTop 0x8128).latch = none ∧ (atTop 0x8128).pc.toNat ≤ 0xFFE ∧
    decodeWord ((atTop 0x8128).mem.read 0xFFE ++ (atTop 0x8128).mem.read 0xFFF) = .error (.unmatched 0x8128) := by decide
theorem witness_FaultsAreRaisedExactlyAsTabled :
    dueFault (State.reset.setPc 0xFFF) = some .fetchOutOfRange ∧ dueFault (State.reset.setPc 0xFFE) = none ∧
    dueFault ((atIndex 0xFFE).withFetchWord 16 0xF033) = some .dataOutOfRange ∧
    dueFault ((atDepth 16).withFetchWord 16 0x2300) = some .stackOverflow ∧
    dueFault (State.reset.withFetchWord 16 0x00EE) = some .stackUnderflow ∧
    dueFault ((withRegs [(1, 16)]).withFetchWord 16 0xE1A1) = some .keyIndexOutOfRange ∧
    dueFault ((atDepth 16).withFetchWord 16 0x00EE) = none ∧ (atDepth 16).sp.toNat ≤ 16 ∧
    (run1 0x00EE (atDepth 16)).isSome = true := by decide
theorem witness_FaultingStepChangesOnlyTheLatch :
    ∃ t, step (State.reset.setPc 0xFFF) = .next t ∧ t.latch ≠ none := ⟨_, rfl, by decide⟩
theorem witness_HaltedUntilReset :
    ∃ s t : State, s.latch = some .stackOverflow ∧ HostEvent.timerTick ≠ .reset ∧ hostEvent .timerTick s = .next t ∧
      hostEvent (.loadProgram [1]) s = .next (hostLoadProgram [1] s) :=
  ⟨State.reset.setLatch (some .stackOverflow), _, rfl, by decide, rfl, rfl⟩
theorem witness_NoSafeRunLeavesAFaultWithoutReset :
    ∃ (as : List Action) (s t : State), s.latch ≠ none ∧ Action.host .reset ∉ as ∧ as ≠ [] ∧ runActions as s = .next t :=
  ⟨[.engine, .host .timerTick], State.reset.setLatch (some .keyIndexOutOfRange), _, by decide, by decide, by decide, rfl⟩

/-- The run invariant of the reset state, used by the witnesses below. -/
theorem runInvariant_reset : RunInvariant State.reset :=
  ⟨by decide, by decide, by decide, by decide⟩

theorem witness_StepKeepsRunInvariant : ∃ s t : State, RunInvariant s ∧ step s = .next t :=
  ⟨State.reset, _, runInvariant_reset, rfl⟩
theorem witness_RunInvariant_at_its_bounds : RunInvariant (((atDepth 16).setPc 0x10FE).setStackEntry 15 0x1000) :=
  ⟨by decide, by decide, by decide, by decide⟩
theorem witness_HostEventsKeepRunInvariant : ∃ s t : State, RunInvariant s ∧ hostEvent (.loadProgram [0x12, 0]) s = .next t :=
  ⟨State.reset, _, runInvariant_reset, rfl⟩
theorem witness_ReachableStatesMeetInvariantAndStep : ∃ s : State, Reachable s ∧ s.latch = none ∧ s ≠ State.reset :=
  ⟨State.reset.setPc 0x202, .act (a := .engine) .reset rfl, rfl, by decide⟩
theorem witness_CanonicalMemoriesThatReadAlikeAreEqual :
    Memory.wf [(0, 1), (0xFFF, 5)] = true ∧ Memory.wf [(0x1000, 1)] = false ∧ Memory.wf [(1, 0)] = false := by decide
theorem witness_LoadProgramFillsFromTheProgramBase :
    (List.replicate 3583 (0x12 : Byte)).length ≤ 3583 ∧ ([] : List Byte).length ≤ 3583 := by
  simp only [List.length_replicate]; decide
theorem witness_OversizedImageIsRefused : (List.replicate 3584 (0x12 : Byte)).length > 3583 := by
  simp only [List.length_replicate]; decide
theorem witness_FontAndProgramLoadInEitherOrder : ([0x12, 0x00] : List Byte).length ≤ 3583 := by decide
theorem witness_SysDoesNothing :
    [0x000#12, 0x0DF#12, 0x0E1#12, 0xFED#12, 0xFEF#12].all (fun nnn => nnn.toNat % 256 ≠ 0xE0 ∧ nnn.toNat % 256 ≠ 0xEE) =
      true := by decide
theorem witness_ReturnPopsOrUnderflows :
    (atDepth 1).sp.toNat = (0 : Fin 16).val + 1 ∧ (atDepth 16).sp.toNat = (15 : Fin 16).val + 1 ∧
    (atDepth 0).sp.toNat = 0 := by decide
theorem witness_ReturnAboveTheStackStops : (atDepth 17).sp.toNat > 16 ∧ (atDepth 255).sp.toNat > 16 := by decide
theorem witness_CallPushesAndReturnComesBack :
    (atDepth 0).sp.toNat = (0 : Fin 16).val ∧ (atDepth 15).sp.toNat = (15 : Fin 16).val ∧ (atDepth 16).sp.toNat ≥ 16 := by
  decide
theorem witness_flag_clause_of_the_flag_writers : (0 : Reg) ≠ 15 ∧ (14 : Reg) ≠ 15 := by decide
theorem witness_BcdStoresThreeDigits :
    (atIndex 0).index.toNat + 2 ≤ 0xFFF ∧ (atIndex 0xFFD).index.toNat + 2 ≤ 0xFFF ∧
    (atIndex 0xFFE).index.toNat + 2 > 0xFFF ∧ (atIndex 0xFFFF).index.toNat + 2 > 0xFFF := by decide
theorem witness_BlockStoreCopiesTheRegisters :
    (atIndex 0xFFF).index.toNat + (0 : Reg).val ≤ 0xFFF ∧ (atIndex 0xFF0).index.toNat + (15 : Reg).val ≤ 0xFFF ∧
    (atIndex 0x1000).index.toNat + (0 : Reg).val > 0xFFF ∧ (atIndex 0xFF1).index.toNat + (15 : Reg).val > 0xFFF := by decide
theorem witness_BlockLoadCopiesTheBytes :
    (atIndex 0xFFF).index.toNat + (0 : Reg).val ≤ 0xFFF ∧ (atIndex 0xFF0).index.toNat + (15 : Reg).val ≤ 0xFFF ∧
    (atIndex 0x1000).index.toNat + (0 : Reg).val > 0xFFF ∧ (atIndex 0xFF1).index.toNat + (15 : Reg).val > 0xFFF := by decide
theorem witness_StoredCodeIsFetched :
    (atIndex 0xFFF).index.toNat + (0 : Reg).val ≤ 0xFFF ∧ (atIndex 0xFF0).index.toNat + (15 : Reg).val ≤ 0xFFF ∧
    (atIndex 0xFFD).index.toNat + 2 ≤ 0xFFF ∧ (0x0000#16).toNat ≤ 0xFFE ∧ (0xFFE#16).toNat ≤ 0xFFE := by decide
theorem witness_DrawInvertsTheCoveredCells :
    ((0 : Fin 16).val = 0 ∨ (atIndex 0xFFFF).index.toNat + ((0 : Fin 16).val - 1) ≤ 0xFFF) ∧
    ((1 : Fin 16).val = 0 ∨ (atIndex 0xFFF).index.toNat + ((1 : Fin 16).val - 1) ≤ 0xFFF) ∧
    (2 : Fin 16).val ≠ 0 ∧ (atIndex 0xFFF).index.toNat + ((2 : Fin 16).val - 1) > 0xFFF ∧
    (1 : Fin 16).val ≠ 0 ∧ (atIndex 0x1000).index.toNat + ((1 : Fin 16).val - 1) > 0xFFF := by decide
theorem witness_DrawingTwiceRestoresTheFramebuffer :
    (0 : Reg) ≠ 15 ∧ (1 : Reg) ≠ 15 ∧
    ((5 : Fin 16).val = 0 ∨ (atIndex 0x50).index.toNat + ((5 : Fin 16).val - 1) ≤ 0xFFF) := by decide
theorem witness_KeySkipsFollowTheNamedKey :
    ((withRegs [(1, 0)]).reg 1).toNat = (0 : Fin 16).val ∧ ((withRegs [(1, 15)]).reg 1).toNat = (15 : Fin 16).val ∧
    ((withRegs [(1, 16)]).reg 1).toNat > 15 ∧ ((withRegs [(1, 0xFF)]).reg 1).toNat > 15 := by decide

/-- The reset state with one key pressed. -/
def keyDown (i : Fin 16) : State := State.reset.setKeys (State.reset.keys.set i true)

theorem witness_KeyWaitStoresTheLeastKeyOrRepeats :
    ((keyDown 0).keys[(0 : Fin 16)] = true ∧ ∀ j : Fin 16, j < 0 → (keyDown 0).keys[j] = false) ∧
    ((keyDown 15).keys[(15 : Fin 16)] = true ∧ ∀ j : Fin 16, j < 15 → (keyDown 15).keys[j] = false) ∧
    (∀ i : Fin 16, State.reset.keys[i] = false) ∧
    ((∀ i : Fin 16, (atTop 0xF10A).keys[i] = false) ∧ (atTop 0xF10A).latch = none ∧ (atTop 0xF10A).pc.toNat ≤ 0xFFE ∧
      (atTop 0xF10A).mem.read (atTop 0xF10A).pc.toNat ++ (atTop 0xF10A).mem.read ((atTop 0xF10A).pc.toNat + 1) =
        formatX 0xF#4 1 0x0A#8) := by decide
theorem witness_RegistersChangeOnlyAsNamed :
    ∃ t : State, exec (.ldByte 3 7) State.reset = .next t ∧ t.reg 3 ≠ State.reset.reg 3 := ⟨_, rfl, by decide⟩
theorem witness_EngineWritesOnlyWhatItOwns :
    (∃ t : State, exec (.ldI 7) State.reset = .next t ∧ t.index ≠ State.reset.index) ∧
    (∃ t : State, exec (.call 7) State.reset = .next t ∧ t.sp ≠ State.reset.sp ∧
      exec (.call 7) (State.reset.setPc 0x202) = .next (((((State.reset.setPc 0x202).setStackEntry 0 0x202).setSp 1).setPc 7))) ∧
    (∃ t : State, exec (.ldDtVx 1) (withRegs [(1, 9)]) = .next t ∧ t.delayTimer ≠ (withRegs [(1, 9)]).delayTimer) ∧
    (∃ t : State, exec (.ldStVx 1) (withRegs [(1, 9)]) = .next t ∧ t.soundTimer ≠ (withRegs [(1, 9)]).soundTimer) ∧
    (∃ t : State, exec .cls State.reset = .next t ∧ t.dirty ≠ State.reset.dirty) ∧
    (∃ t : State, exec (.ldMemVx 1) (withRegs [(1, 9)]) = .next t ∧ t.mem ≠ (withRegs [(1, 9)]).mem) :=
  ⟨⟨_, rfl, by decide⟩, ⟨_, rfl, by decide, rfl⟩, ⟨_, rfl, by decide⟩, ⟨_, rfl, by decide⟩, ⟨_, rfl, by decide⟩,
    ⟨_, rfl, by decide⟩⟩
theorem witness_EngineWritesOnlyWhatItOwns_stack_and_video :
    (∃ t : State, exec (.call 7) State.reset = .next t ∧ t.stack ≠ State.reset.stack) ∧
    (∃ t : State, exec (.drw 0 0 1) (State.reset.setMem [(0, 0x80)]) = .next t ∧ t.video[0]? ≠ State.reset.video[0]?) :=
  ⟨⟨_, rfl, by decide⟩, ⟨_, rfl, by decide⟩⟩
theorem witness_EngineWritesOnlyWhatItOwns_pc_latch_draws :
    (∃ t : State, exec (.jp 7) State.reset = .next t ∧ t.pc ≠ State.reset.pc) ∧
    (∃ t : State, exec (.ldB 0) (atIndex 0xFFE) = .next t ∧ t.pc ≠ (atIndex 0xFFE).pc ∧ t.latch ≠ (atIndex 0xFFE).latch) ∧
    (∃ t : State, exec (.rnd 0 0) State.reset = .next t ∧ t.draws ≠ State.reset.draws) :=
  ⟨⟨_, rfl, by decide⟩, ⟨_, rfl, by decide, by decide⟩, ⟨_, rfl, by decide⟩⟩
theorem witness_NoInstructionReadsSoundTimerDirtyOrLatch : ∃ t : State, exec (.skp 0) State.reset = .next t := ⟨_, rfl⟩
theorem witness_JumpToSelfIsAFixedPoint :
    (atTop 0x1FFE).latch = none ∧ (atTop 0x1FFE).pc.toNat ≤ 0xFFE ∧ (0xFFE#12).toNat = (atTop 0x1FFE).pc.toNat ∧
    (atTop 0x1FFE).mem.read (atTop 0x1FFE).pc.toNat ++ (atTop 0x1FFE).mem.read ((atTop 0x1FFE).pc.toNat + 1) =
      formatA 0x1#4 0xFFE#12 := by decide

end Sys2Proof.Tests
end

section
/-! PROOFS, family 10_state.md: what Reset leaves (R28), and which instruction writes which element of the state (R12 to
R22, R29). -/

namespace Sys2Proof.Machine

/-! ## The reset state, element by element (R28) -/

@[simp] theorem State.reset_reg (r : Reg) : State.reset.reg r = 0#8 := by simp [State.reset, State.reg]

@[simp] theorem State.reset_stack_getElem (i : Fin 16) : State.reset.stack[i] = 0#16 := by simp [State.reset]

@[simp] theorem State.reset_keys_getElem (i : Fin 16) : State.reset.keys[i] = false := by simp [State.reset]

@[simp] theorem State.reset_video_getElem (c : CellIdx) : State.reset.video[c] = false := by simp [State.reset]

@[simp] theorem State.reset_mem_read (a : Nat) : State.reset.mem.read a = 0#8 := rfl

/-- Settles O18: Reset leaves the start state but for the draw counter, which no element of the table is. -/
theorem resetLeavesTheTabledValues : Obligations.ResetLeavesTheTabledValues := by
  unfold Obligations.ResetLeavesTheTabledValues
  refine fun s => ⟨State.reset.setDraws s.draws, rfl, fun u hu => ?_⟩
  obtain ⟨n, rfl⟩ : ∃ n, u = State.reset.setDraws n := by
    rcases hu with rfl | rfl
    · exact ⟨s.draws, rfl⟩
    · exact ⟨0, rfl⟩
  exact ⟨rfl, State.reset_reg, rfl, rfl, State.reset_stack_getElem, rfl, rfl, State.reset_keys_getElem,
    State.reset_video_getElem, rfl, State.reset_mem_read, rfl⟩

/-! ## What an instruction may write (R12 to R22, R29) -/

/-- The next states an instruction can leave, by what they write of the state `s` its handler is given: one case for each
group of elements written together, with the instructions that own the group. Register values are left open. -/
inductive Writes (s : State) : Instr → State → Prop where
  /-- the registers alone, or nothing (R10) -/
  | registers {i : Instr} (r : Vector Byte 16) : Writes s i { s with regs := r }
  /-- `I` alone (R12) -/
  | index {i : Instr} (v : Word) (owner : (∃ nnn, i = .ldI nnn) ∨ (∃ x, i = .addI x) ∨ ∃ x, i = .ldF x) :
      Writes s i (s.setIndex v)
  /-- `PC` alone (R13) -/
  | counter {i : Instr} (v : Word) (owner : writesPc i) : Writes s i (s.setPc v)
  /-- the pop of a return address (R14, R61) -/
  | pop (depth : Byte) (target : Word) : Writes s .ret ((s.setSp depth).setPc target)
  /-- the push of a return address (R15, R63) -/
  | push (nnn : BitVec 12) (entries : Vector Word 16) (depth : Byte) (target : Word) :
      Writes s (.call nnn) (((s.setStack entries).setSp depth).setPc target)
  /-- `DT` alone (R29, R100) -/
  | delayTimer (x : Reg) (v : Byte) : Writes s (.ldDtVx x) (s.setDelayTimer v)
  /-- `ST` alone (R29, R101) -/
  | soundTimer (x : Reg) (v : Byte) : Writes s (.ldStVx x) (s.setSoundTimer v)
  /-- the framebuffer and VF, with UD set (R29, R92, R93) -/
  | display {i : Instr} (r : Vector Byte 16) (v : Video) (owner : i = .cls ∨ ∃ x y n, i = .drw x y n) :
      Writes s i (({ s with regs := r }.setVideo v).setDirty true)
  /-- memory alone (R29, R88, R89) -/
  | memory {i : Instr} (m : Memory) (owner : (∃ x, i = .ldB x) ∨ ∃ x, i = .ldMemVx x) : Writes s i (s.setMem m)
  /-- a register, with one random draw counted (R81; log entry 1) -/
  | draw (x : Reg) (kk : Byte) (r : Vector Byte 16) :
      Writes s (.rnd x kk) ({ s with regs := r }.setDraws (s.draws + 1))
  /-- FAULT, with `PC` taken back to the instruction (R22, R110, R111) -/
  | fault {i : Instr} (c : FaultCause) (owner : mayRaise i) : Writes s i ((s.setPc (s.pc - 2#16)).setLatch (some c))

section
variable {i : Instr} {s t : State}

theorem writes_of_raise {c : FaultCause} (owner : mayRaise i) (h : raise c s = .next t) : Writes s i t := by
  cases h
  exact .fault c owner

/-- A handler that checks first: either it completes or it raises. -/
theorem writes_of_check {b : Prop} [Decidable b] {u : State} {c : FaultCause} (owner : mayRaise i) (hu : Writes s i u)
    (h : (if b then .next u else raise c s) = .next t) : Writes s i t := by
  split at h
  · cases h
    exact hu
  · exact writes_of_raise owner h

theorem writes_skipIf (owner : writesPc i) (b : Bool) : Writes s i (s.skipIf b) := by
  cases b
  · exact .registers s.regs
  · exact .counter _ owner

theorem writes_of_execRet (h : execRet s = .next t) : Writes s .ret t := by
  unfold execRet at h
  split at h
  · exact writes_of_raise trivial h
  · split at h
    · cases h
      exact .pop _ _
    · cases h

theorem writes_of_execCall {nnn : BitVec 12} (h : execCall nnn s = .next t) : Writes s (.call nnn) t := by
  unfold execCall at h
  split at h
  · exact writes_of_raise trivial h
  · cases h
    exact .push nnn _ _ _

theorem writes_of_execLdVxK {x : Reg} (h : execLdVxK x s = .next t) : Writes s (.ldVxK x) t := by
  unfold execLdVxK at h
  split at h <;> cases h
  · exact .registers _
  · exact .counter _ trivial

/-- Inversion of `exec` by what it writes: a next state is one of `Writes`. -/
theorem writes_of_exec (h : exec i s = .next t) : Writes s i t := by
  cases i with
  | sys | ldByte | addByte | ldReg | orReg | andReg | xorReg | addReg | subReg | shr | subnReg | shl | ldVxDt =>
    cases h
    exact .registers _
  | seByte | sneByte | seReg | sneReg =>
    cases h
    exact writes_skipIf (by trivial) _
  | jp | jpV0 =>
    cases h
    exact .counter _ trivial
  | ldI nnn => cases h; exact .index _ (.inl ⟨nnn, rfl⟩)
  | addI x => cases h; exact .index _ (.inr (.inl ⟨x, rfl⟩))
  | ldF x => cases h; exact .index _ (.inr (.inr ⟨x, rfl⟩))
  | ldDtVx x => cases h; exact .delayTimer x _
  | ldStVx x => cases h; exact .soundTimer x _
  | rnd x kk => cases h; exact .draw x kk _
  | cls => cases h; exact .display s.regs _ (.inl rfl)
  | drw x y n => exact writes_of_check trivial (.display _ _ (.inr ⟨x, y, n, rfl⟩)) h
  | ldB x => exact writes_of_check trivial (.memory _ (.inl ⟨x, rfl⟩)) h
  | ldMemVx x => exact writes_of_check trivial (.memory _ (.inr ⟨x, rfl⟩)) h
  | ldVxMem x =>
    have loaded : Writes s (.ldVxMem x) (loadRegs (regsUpTo x) s) := by
      rw [loadRegs_rest]
      exact .registers _
    exact writes_of_check trivial loaded h
  | ret => exact writes_of_execRet h
  | call nnn => exact writes_of_execCall h
  | skp | sknp =>
    simp only [exec, execSkp, execSknp] at h
    split at h
    · cases h
      exact writes_skipIf (by trivial) _
    · exact writes_of_raise trivial h
  | ldVxK x => exact writes_of_execLdVxK h

end

/-- Settles O50: in each case of `Writes` the elements written are those the statement gives to the instruction. -/
theorem engineWritesOnlyWhatItOwns : Obligations.EngineWritesOnlyWhatItOwns := by
  unfold Obligations.EngineWritesOnlyWhatItOwns
  intro i s t h
  cases writes_of_exec h with
  | registers r => simp
  | index v owner => simp [owner]
  | counter v owner => simp [owner]
  | pop depth target => simp [writesPc]
  | push nnn entries depth target => simp [writesPc]
  | delayTimer x v => simp
  | soundTimer x v => simp
  | display r v owner => simp [owner]
  | memory m owner => simp [owner]
  | draw x kk r => simp
  | fault c owner =>
    have raised : ∃ d, (s.setPc (s.pc - 2#16)).setLatch (some c) = (s.setPc (s.pc - 2#16)).setLatch (some d) :=
      ⟨c, rfl⟩
    simp [owner, raised]

end Sys2Proof.Machine
end

section
/-! PROOFS, family 20_memory.md: what LD B,Vx and LD [I],Vx store, byte by byte, and that a fetch reads it (R34, R42). -/

namespace Sys2Proof.Machine

/-! ## The two stores where the access is valid (R32, R88, R89) -/

theorem exec_ldB_of_valid {x : Reg} {s : State} (h : s.index.toNat + 2 ≤ 0xFFF) :
    exec (.ldB x) s = .next (s.setMem (s.mem.writeBlock (effectiveAddr s 0) (bcdDigits (s.reg x)))) :=
  if_pos ((indexBlockValid_iff s 3).2 (by omega))

theorem exec_ldMemVx_of_valid {x : Reg} {s : State} (h : s.index.toNat + x.val ≤ 0xFFF) :
    exec (.ldMemVx x) s =
      .next (s.setMem (s.mem.writeBlock (effectiveAddr s 0) ((regsUpTo x).map s.reg))) :=
  if_pos ((indexBlockValid_iff s (x.val + 1)).2 (by omega))

/-! ## The memory the stores leave -/

theorem read_blockStore (x : Reg) (s : State) (a : Nat) :
    (s.mem.writeBlock (effectiveAddr s 0) ((regsUpTo x).map s.reg)).read a = byteAfterBlockStore x s a := by
  have hx := x.isLt
  rw [Memory.read_writeBlock, byteAfterBlockStore]
  by_cases stored : s.index.toNat ≤ a ∧ a ≤ s.index.toNat + x.val
  · obtain ⟨k, rfl⟩ : ∃ k, a = s.index.toNat + k := Nat.exists_eq_add_of_le stored.1
    have hk : k ≤ x.val := by omega
    have register : ((regsUpTo x).map s.reg)[k]'(by simp; omega) = s.reg (Fin.ofNat 16 k) := by
      have hk16 : (Fin.ofNat 16 k).val = k := Nat.mod_eq_of_lt (by omega)
      simpa only [hk16] using
        getElem_map_regsUpTo x s.reg (Fin.ofNat 16 k) (Fin.le_def.2 (by omega)) (by simp; omega)
    simp [effectiveAddr, hk, register]
  · rw [if_neg stored, dif_neg (by simp [effectiveAddr]; omega)]

theorem read_bcdStore (x : Reg) (s : State) (a : Nat) :
    (s.mem.writeBlock (effectiveAddr s 0) (bcdDigits (s.reg x))).read a = byteAfterBcd x s a := by
  rw [Memory.read_writeBlock, byteAfterBcd]
  by_cases stored : s.index.toNat ≤ a ∧ a ≤ s.index.toNat + 2
  · obtain ⟨k, rfl⟩ : ∃ k, a = s.index.toNat + k := Nat.exists_eq_add_of_le stored.1
    have hk : k < 3 := by omega
    interval_cases k <;> simp [effectiveAddr, bcdDigits]
  · rw [dif_neg (by simp [effectiveAddr]; omega), if_neg (by omega), if_neg (by omega), if_neg (by omega)]

/-! ## The fetch after a store (R34, R42) -/

/-- A fetch is a function of memory and `PC` alone: it reads two consecutive bytes, the first one high. -/
theorem fetchWord_of_mem_read {t : State} {byteAt : Nat → Byte} (hread : ∀ a, t.mem.read a = byteAt a)
    {p : Word} (hp : p.toNat ≤ 0xFFE) :
    fetchWord (t.setPc p) = some (byteAt p.toNat ++ byteAt (p.toNat + 1)) :=
  (fetchWord_eq_some _ _).2 ⟨hp, by simp [hread]⟩

/-- Settles O42: memory reads as the statement's bytes after either store, and the fetch reads memory. -/
theorem storedCodeIsFetched : Obligations.StoredCodeIsFetched := by
  unfold Obligations.StoredCodeIsFetched
  intro x s
  constructor
  · intro valid
    exact ⟨_, exec_ldMemVx_of_valid valid, rfl, fun p hp => fetchWord_of_mem_read (read_blockStore x s) hp⟩
  · intro valid
    exact ⟨_, exec_ldB_of_valid valid, rfl, fun p hp => fetchWord_of_mem_read (read_bcdStore x s) hp⟩

end Sys2Proof.Machine
end

section
/-! PROOFS, family 30_encoding.md: the dispatch key in numbers (R48), the row a key selects (R49), and the step over a word
of no row (R52). -/

namespace Sys2Proof

/-! ## A word as a number (R46, R50) -/

theorem toNat_append_eq_add {m n : Nat} (x : BitVec m) (y : BitVec n) :
    (x ++ y).toNat = x.toNat * 2 ^ n + y.toNat := by
  rw [BitVec.toNat_append, ← Nat.shiftLeft_add_eq_or_of_lt y.isLt, Nat.shiftLeft_eq]

theorem toNat_formatA (f : BitVec 4) (nnn : BitVec 12) : (formatA f nnn).toNat = f.toNat * 4096 + nnn.toNat :=
  toNat_append_eq_add f nnn

theorem toNat_formatX (f : BitVec 4) (x : Reg) (sub : Byte) :
    (formatX f x sub).toNat = f.toNat * 4096 + x.val * 256 + sub.toNat := by
  simp only [formatX, toNat_append_eq_add, nibbleOf_toNat]
  omega

theorem toNat_formatXY (f : BitVec 4) (x y : Reg) (l : BitVec 4) :
    (formatXY f x y l).toNat = f.toNat * 4096 + x.val * 256 + y.val * 16 + l.toNat := by
  simp only [formatXY, toNat_append_eq_add, nibbleOf_toNat]
  omega

theorem toNat_topNibble (raw : Word) : (topNibble raw).toNat = raw.toNat / 4096 := by
  rw [topNibble, BitVec.extractLsb'_toNat, Nat.shiftRight_eq_div_pow]
  exact Nat.mod_eq_of_lt (by omega)

theorem toNat_fieldKK (raw : Word) : (fieldKK raw).toNat = raw.toNat % 256 := by
  simp [fieldKK]

theorem fieldN_val (raw : Word) : (fieldN raw).val = raw.toNat % 16 := by
  simp [fieldN]

@[simp] theorem nibbleOf_zero : nibbleOf 0 = 0#4 := rfl

theorem nibbleOf_fieldN (raw : Word) : nibbleOf (fieldN raw) = raw.extractLsb' 0 4 := rfl

theorem topNibble_eq_iff (raw : Word) (f : BitVec 4) : topNibble raw = f ↔ raw.toNat / 4096 = f.toNat := by
  rw [← toNat_topNibble, BitVec.toNat_inj]

/-! ## The three dispatch masks, by the fields they keep (R48) -/

theorem and_topMask (raw : Word) : raw &&& 0xF000#16 = formatA (topNibble raw) 0 := by
  refine masked_eq fun i hi => ?_
  rw [formatA_getLsbD]
  interval_cases i <;> simp [topNibble]

theorem and_lowByteMask (raw : Word) : raw &&& 0xF0FF#16 = formatX (topNibble raw) 0 (fieldKK raw) := by
  refine masked_eq fun i hi => ?_
  rw [formatX_getLsbD]
  interval_cases i <;> simp [topNibble, fieldKK]

theorem and_lowNibbleMask (raw : Word) :
    raw &&& 0xF00F#16 = formatXY (topNibble raw) 0 0 (nibbleOf (fieldN raw)) := by
  refine masked_eq fun i hi => ?_
  rw [formatXY_getLsbD]
  interval_cases i <;> simp [topNibble, nibbleOf_fieldN]

/-! ## The dispatch key (R48) -/

/-- The mask of R48 for a family. -/
def keyMask (f : BitVec 4) : Word :=
  if f = 0x0#4 ∨ f = 0xE#4 ∨ f = 0xF#4 then 0xF0FF#16 else if f = 0x8#4 then 0xF00F#16 else 0xF000#16

theorem dispatchKey_eq_and_keyMask (raw : Word) : dispatchKey raw = raw &&& keyMask (topNibble raw) := by
  simp only [dispatchKey, keyMask]
  split
  · rfl
  · split <;> rfl

theorem topNibble_and (a b : Word) : topNibble (a &&& b) = topNibble a &&& topNibble b := BitVec.extractLsb'_and

theorem topNibble_and_keyMask (raw : Word) (f : BitVec 4) : topNibble (raw &&& keyMask f) = topNibble raw := by
  have keepsFamily : topNibble (keyMask f) = BitVec.allOnes 4 := by revert f; decide
  rw [topNibble_and, keepsFamily, BitVec.and_allOnes]

@[simp] theorem topNibble_dispatchKey (raw : Word) : topNibble (dispatchKey raw) = topNibble raw := by
  rw [dispatchKey_eq_and_keyMask, topNibble_and_keyMask]

/-- A word has a given key when the mask of the key's family makes it that key. -/
theorem dispatchKey_eq_iff (raw key : Word) : dispatchKey raw = key ↔ raw &&& keyMask (topNibble key) = key := by
  constructor
  · rintro rfl
    rw [topNibble_dispatchKey, dispatchKey_eq_and_keyMask]
  · intro h
    have sameFamily : topNibble raw = topNibble key := by rw [← topNibble_and_keyMask raw (topNibble key), h]
    rw [dispatchKey_eq_and_keyMask, sameFamily, h]

theorem toNat_dispatchKey_of_low {raw : Word}
    (h : raw.toNat / 4096 = 0x0 ∨ raw.toNat / 4096 = 0xE ∨ raw.toNat / 4096 = 0xF) :
    (dispatchKey raw).toNat = raw.toNat / 4096 * 4096 + raw.toNat % 256 := by
  have low : topNibble raw = 0x0#4 ∨ topNibble raw = 0xE#4 ∨ topNibble raw = 0xF#4 := by
    simp only [topNibble_eq_iff]
    exact h
  rw [dispatchKey_of_low low, and_lowByteMask, toNat_formatX, toNat_topNibble, toNat_fieldKK]
  simp

theorem toNat_dispatchKey_of_arith {raw : Word} (h : raw.toNat / 4096 = 0x8) :
    (dispatchKey raw).toNat = 0x8000 + raw.toNat % 16 := by
  rw [dispatchKey_of_arith ((topNibble_eq_iff raw _).2 h), and_lowNibbleMask, toNat_formatXY, toNat_topNibble,
    nibbleOf_toNat, fieldN_val, h]
  simp

theorem toNat_dispatchKey_of_plain {raw : Word} (h0 : raw.toNat / 4096 ≠ 0x0) (h8 : raw.toNat / 4096 ≠ 0x8)
    (hE : raw.toNat / 4096 ≠ 0xE) (hF : raw.toNat / 4096 ≠ 0xF) :
    (dispatchKey raw).toNat = raw.toNat / 4096 * 4096 := by
  have other {f : BitVec 4} (hf : raw.toNat / 4096 ≠ f.toNat) : topNibble raw ≠ f := mt (topNibble_eq_iff raw f).1 hf
  rw [dispatchKey_of_plain (other h0) (other h8) (other hE) (other hF), and_topMask, toNat_formatA, toNat_topNibble]
  simp

/-! ## The row a key selects (R49) -/

/-- The row of a key, whatever word its operands are read from; `none` for a key of no row. -/
def rowOfKey (key : Word) : Option OpcodeRow := (lookupKey 0#16 key).map Instr.opcodeRow

/-- The word gives the operands alone: the row is the key's. -/
theorem lookupKey_map_opcodeRow (raw key : Word) : (lookupKey raw key).map Instr.opcodeRow = rowOfKey key := by
  unfold rowOfKey lookupKey
  split
  case h_35 => split <;> rfl
  all_goals rfl

theorem decodeWord_eq_ok_iff (raw : Word) (i : Instr) :
    decodeWord raw = .ok i ↔ lookupKey raw (dispatchKey raw) = some i := by
  unfold decodeWord
  split <;> simp_all

theorem decodeWord_eq_unmatched_iff (raw : Word) :
    decodeWord raw = .error (.unmatched raw) ↔ rowOfKey (dispatchKey raw) = none := by
  rw [← lookupKey_map_opcodeRow raw, Option.map_eq_none_iff]
  unfold decodeWord
  split <;> simp_all

/-- The word decodes to an instruction of a row exactly when that is the row of its key. -/
theorem exists_decodeWord_row_iff (raw : Word) (r : OpcodeRow) :
    (∃ i, decodeWord raw = .ok i ∧ i.opcodeRow = r) ↔ rowOfKey (dispatchKey raw) = some r := by
  simp only [decodeWord_eq_ok_iff, ← lookupKey_map_opcodeRow raw, Option.map_eq_some_iff]

/-- Settles O4: the row is a function of the key (`rowOfKey`), and the key keeps the fields of its family. -/
theorem dispatchKeyKeepsTheNibblesOfItsFamily : Obligations.DispatchKeyKeepsTheNibblesOfItsFamily := by
  unfold Obligations.DispatchKeyKeepsTheNibblesOfItsFamily
  refine ⟨fun raw raw' sameKey => ?_, fun raw =>
    ⟨toNat_dispatchKey_of_low, toNat_dispatchKey_of_arith, toNat_dispatchKey_of_plain⟩⟩
  simp only [decodeWord_eq_unmatched_iff, ← sameKey]
  cases hrow : rowOfKey (dispatchKey raw) with
  | none => exact .inr ⟨rfl, rfl⟩
  | some r =>
    obtain ⟨i, hi, rfl⟩ := (exists_decodeWord_row_iff raw r).2 hrow
    obtain ⟨i', hi', hr⟩ := (exists_decodeWord_row_iff raw' _).2 (sameKey ▸ hrow)
    exact .inl ⟨i, i', hi, hi', hr.symm⟩

/-! ## The table by masks and matches (R49) -/

/-- Inversion of the table: row 1 has the keys of family 0 that rows 2 and 3 leave, every other row its match alone. -/
theorem rowOfKey_cases {key : Word} {r : OpcodeRow} (h : rowOfKey key = some r) :
    (r.row = 1 ∧ key &&& 0xF000#16 = 0x0000#16 ∧ key ≠ 0x00E0#16 ∧ key ≠ 0x00EE#16) ∨
      (r.row ≠ 1 ∧ key = r.pattern) := by
  unfold rowOfKey lookupKey at h
  split at h
  case h_35 =>
    split at h <;> cases h
    exact .inl ⟨rfl, ‹_›, ‹_›, ‹_›⟩
  all_goals
    cases h
    exact .inr ⟨by simp [Instr.opcodeRow], rfl⟩

theorem rowOfKey_eq_sys_iff (key : Word) (nnn : BitVec 12) :
    rowOfKey key = some (Instr.sys nnn).opcodeRow ↔
      key &&& 0xF000#16 = 0x0000#16 ∧ key ≠ 0x00E0#16 ∧ key ≠ 0x00EE#16 := by
  constructor
  · intro selected
    obtain ⟨-, keys⟩ | ⟨notSys, -⟩ := rowOfKey_cases selected
    · exact keys
    · exact absurd rfl notSys
  · rintro ⟨family, notCls, notRet⟩
    unfold rowOfKey lookupKey
    split
    case h_1 => exact absurd rfl notCls
    case h_2 => exact absurd rfl notRet
    case h_35 => rw [if_pos family]; rfl
    all_goals exact absurd family (by decide)

theorem rowOfKey_eq_iff_pattern {j : Instr} (key : Word) (notSys : j.opcodeRow.row ≠ 1) :
    rowOfKey key = some j.opcodeRow ↔ key = j.opcodeRow.pattern := by
  constructor
  · intro selected
    obtain ⟨isSys, -⟩ | ⟨-, hkey⟩ := rowOfKey_cases selected
    · exact absurd isSys notSys
    · exact hkey
  · rintro rfl
    cases j with
    | sys nnn => exact absurd rfl notSys
    | _ => rfl

/-- Every row but row 1 has the dispatch mask of its family as its mask. -/
theorem keyMask_pattern {j : Instr} (notSys : j.opcodeRow.row ≠ 1) :
    keyMask (topNibble j.opcodeRow.pattern) = j.opcodeRow.mask := by
  cases j with
  | sys nnn => exact absurd rfl notSys
  | _ => simp [Instr.opcodeRow, keyMask, topNibble]

theorem and_topMask_dispatchKey (raw : Word) : dispatchKey raw &&& 0xF000#16 = raw &&& 0xF000#16 := by
  rw [and_topMask, and_topMask, topNibble_dispatchKey]

/-- In family 0 the key is the low byte. -/
theorem toNat_dispatchKey_of_family_zero {raw : Word} (h : raw &&& 0xF000#16 = 0x0000#16) :
    (dispatchKey raw).toNat = raw.toNat % 256 := by
  have family : raw.toNat / 4096 = 0 := by
    have := congrArg BitVec.toNat h
    rw [and_topMask, toNat_formatA, toNat_topNibble] at this
    simpa using this
  rw [toNat_dispatchKey_of_low (.inl family), family, Nat.zero_mul, Nat.zero_add]

theorem eq_sys_of_row_eq_one {j : Instr} (isSys : j.opcodeRow.row = 1) : ∃ nnn, j = .sys nnn := by
  cases j with
  | sys nnn => exact ⟨nnn, rfl⟩
  | _ => simp [Instr.opcodeRow] at isSys

/-- Row 1 over words: its mask and match, and a low byte that is neither that of CLS nor that of RET. -/
theorem rowOfKey_dispatchKey_eq_sys_iff (raw : Word) (nnn : BitVec 12) :
    rowOfKey (dispatchKey raw) = some (Instr.sys nnn).opcodeRow ↔
      raw &&& 0xF000#16 = 0x0000#16 ∧ raw.toNat % 256 ≠ 0xE0 ∧ raw.toNat % 256 ≠ 0xEE := by
  rw [rowOfKey_eq_sys_iff, and_topMask_dispatchKey]
  refine and_congr_right fun family => ?_
  have lowByte := toNat_dispatchKey_of_family_zero family
  simp [← BitVec.toNat_inj, lowByte]

/-- Settles O3: row 1 by its note; every other row because its mask is the dispatch mask of its family. -/
theorem rowIsSelectedByItsMaskAndMatch : Obligations.RowIsSelectedByItsMaskAndMatch := by
  unfold Obligations.RowIsSelectedByItsMaskAndMatch
  intro raw j
  rw [exists_decodeWord_row_iff]
  by_cases isSys : j.opcodeRow.row = 1
  · obtain ⟨nnn, rfl⟩ := eq_sys_of_row_eq_one isSys
    simpa [Instr.opcodeRow] using rowOfKey_dispatchKey_eq_sys_iff raw nnn
  · rw [rowOfKey_eq_iff_pattern _ isSys, dispatchKey_eq_iff, keyMask_pattern isSys]
    simp [isSys]

end Sys2Proof

namespace Sys2Proof.Machine

/-! ## The step over a word of no row (R52) -/

theorem step_of_unmatched {s : State} {raw : Word} {r : Reject} (running : s.latch = none)
    (fetched : fetchWord s = some raw) (rejected : decodeWord raw = .error r) : step s = .next s.advance := by
  simp only [step, running, fetched, rejected, execUnmatched]

/-- Settles O8: in range the fetch reads the two bytes at `PC`, and the step over their word is the advance alone. -/
theorem unmatchedWordOnlyAdvancesPc : Obligations.UnmatchedWordOnlyAdvancesPc := by
  unfold Obligations.UnmatchedWordOnlyAdvancesPc
  intro s r running inRange rejected
  exact step_of_unmatched running ((fetchWord_eq_some s _).2 ⟨inRange, rfl⟩) rejected

end Sys2Proof.Machine
end

section
/-! PROOFS, family 40_flow.md: the words of SYS, RET, the jumps, CALL and the register skips decode to them, and what each
does to `PC`, `SP` and the stack (R60 to R69). -/

namespace Sys2Proof

/-! ## Decoding a word by its fixed bits (R49) -/

/-- A word with the fixed bits of a row other than SYS decodes to the instruction that the row reads from it. Which row
and which fields that is, is found by evaluation for each constructor. -/
theorem decodeWord_of_fixedBits {raw : Word} {i : Instr} (fixed : raw &&& i.opcodeRow.mask = i.opcodeRow.pattern)
    (notSys : i.opcodeRow.row ≠ 1 := by simp [Instr.opcodeRow])
    (reads : lookupKey raw i.opcodeRow.pattern = some i := by simp [lookupKey, Instr.opcodeRow]) :
    decodeWord raw = .ok i := by
  have key : dispatchKey raw = i.opcodeRow.pattern := by rw [dispatchKey_eq_iff, keyMask_pattern notSys, fixed]
  rw [decodeWord_eq_ok_iff, key, reads]

theorem decodeWord_ret (x : Reg) : decodeWord (formatX 0x0#4 x 0xEE#8) = .ok .ret :=
  decodeWord_of_fixedBits ((formatX_fixed _ _ _).trans rfl)

theorem decodeWord_jp (nnn : BitVec 12) : decodeWord (formatA 0x1#4 nnn) = .ok (.jp nnn) :=
  decodeWord_of_fixedBits (Laws.FixedBits.jp nnn)

theorem decodeWord_call (nnn : BitVec 12) : decodeWord (formatA 0x2#4 nnn) = .ok (.call nnn) :=
  decodeWord_of_fixedBits (Laws.FixedBits.call nnn)

theorem decodeWord_jpV0 (nnn : BitVec 12) : decodeWord (formatA 0xB#4 nnn) = .ok (.jpV0 nnn) :=
  decodeWord_of_fixedBits (Laws.FixedBits.jpV0 nnn)

theorem decodeWord_seByte (x : Reg) (kk : Byte) : decodeWord (formatXK 0x3#4 x kk) = .ok (.seByte x kk) :=
  decodeWord_of_fixedBits (Laws.FixedBits.seByte x kk)

theorem decodeWord_sneByte (x : Reg) (kk : Byte) : decodeWord (formatXK 0x4#4 x kk) = .ok (.sneByte x kk) :=
  decodeWord_of_fixedBits (Laws.FixedBits.sneByte x kk)

/-- Whatever the low nibble, which no field of the row reads (R51, R66). -/
theorem decodeWord_seReg (x y : Reg) (low : BitVec 4) : decodeWord (formatXY 0x5#4 x y low) = .ok (.seReg x y) :=
  decodeWord_of_fixedBits ((formatXY_fixed _ _ _ _).trans rfl)

/-- Whatever the low nibble, which no field of the row reads (R51, R67). -/
theorem decodeWord_sneReg (x y : Reg) (low : BitVec 4) : decodeWord (formatXY 0x9#4 x y low) = .ok (.sneReg x y) :=
  decodeWord_of_fixedBits ((formatXY_fixed _ _ _ _).trans rfl)

/-! ## The words of SYS (R60) -/

theorem operand_of_lookupKey_eq_sys {raw key : Word} {nnn : BitVec 12} (h : lookupKey raw key = some (.sys nnn)) :
    nnn = fieldNNN raw := by
  unfold lookupKey at h
  split at h
  case h_35 =>
    split at h <;> cases h
    rfl
  all_goals cases h

theorem decodeWord_sys {nnn : BitVec 12} (notCls : nnn.toNat % 256 ≠ 0xE0) (notRet : nnn.toNat % 256 ≠ 0xEE) :
    decodeWord (formatA 0x0#4 nnn) = .ok (.sys nnn) := by
  have value : (formatA 0x0#4 nnn).toNat = nnn.toNat := by simp [toNat_formatA]
  have selected : rowOfKey (dispatchKey (formatA 0x0#4 nnn)) = some (Instr.sys nnn).opcodeRow :=
    (rowOfKey_dispatchKey_eq_sys_iff _ nnn).2 ⟨Laws.FixedBits.sys nnn, by rwa [value], by rwa [value]⟩
  obtain ⟨i, decoded, row⟩ := (exists_decodeWord_row_iff _ _).2 selected
  obtain ⟨m, rfl⟩ := eq_sys_of_row_eq_one (congrArg OpcodeRow.row row)
  have operand := operand_of_lookupKey_eq_sys ((decodeWord_eq_ok_iff _ _).1 decoded)
  rw [decoded, operand, fieldNNN_formatA]

end Sys2Proof

namespace Sys2Proof.Machine

/-! ## Frames (R29) -/

theorem ChangesOnly.refl (w : Elem → Prop) (s : State) : ChangesOnly w s s := by
  intro e _
  cases e <;> rfl

theorem ChangesOnly.trans {w : Elem → Prop} {s t u : State} (first : ChangesOnly w s t) (second : ChangesOnly w t u) :
    ChangesOnly w s u := by
  intro e kept
  have h₁ := first e kept
  have h₂ := second e kept
  cases e <;> exact Eq.trans h₂ h₁

section
variable {w : Elem → Prop} (s : State)

theorem changesOnly_setPc (owned : w .pc) (v : Word) : ChangesOnly w s (s.setPc v) := by
  intro e kept
  cases e with
  | pc => exact absurd owned kept
  | _ => rfl

theorem changesOnly_setSp (owned : w .sp) (v : Byte) : ChangesOnly w s (s.setSp v) := by
  intro e kept
  cases e with
  | sp => exact absurd owned kept
  | _ => rfl

theorem changesOnly_setStackEntry {i : Fin 16} (owned : w (.stack i)) (v : Word) :
    ChangesOnly w s (s.setStackEntry i.val v) := by
  intro e kept
  cases e with
  | stack j =>
    have other : j.val ≠ i.val := fun same => kept (Fin.ext same ▸ owned)
    exact (s.setStackEntry_get i.val v j).trans (if_neg other)
  | _ => rfl

theorem changesOnly_skipIf (owned : w .pc) (c : Bool) : ChangesOnly w s (s.skipIf c) := by
  cases c
  · exact .refl w s
  · exact changesOnly_setPc s owned _

end

/-! ## SYS (R60) -/

/-- Settles O26: row 1 takes the words of family 0 that are neither CLS nor RET, and its arm is the identity. -/
theorem sysDoesNothing : Obligations.SysDoesNothing := by
  unfold Obligations.SysDoesNothing
  exact ⟨fun _ => decodeWord_sys, fun _ _ => rfl⟩

/-! ## RET (R61) -/

theorem exec_ret_of_depth {s : State} {i : Fin 16} (depth : s.sp.toNat = i.val + 1) :
    exec .ret s = .next ((s.setSp (s.sp - 1#8)).setPc s.stack[i]) := by
  have notEmpty : s.sp ≠ 0#8 := by
    intro empty
    simp [empty] at depth
  have top : s.stackEntry (s.sp.toNat - 1) = some s.stack[i] := by
    rw [depth, Nat.add_sub_cancel, s.stackEntry_of_lt i.isLt]
    rfl
  simp only [exec, execRet, if_neg notEmpty, top]

theorem exec_ret_of_empty {s : State} (empty : s.sp.toNat = 0) : exec .ret s = raise .stackUnderflow s :=
  if_pos (BitVec.eq_of_toNat_eq empty)

/-- Settles O27: the two cases of RET, by whether there is an entry to pop. -/
theorem returnPopsOrUnderflows : Obligations.ReturnPopsOrUnderflows := by
  unfold Obligations.ReturnPopsOrUnderflows
  refine ⟨decodeWord_ret, fun s i depth => ⟨_, exec_ret_of_depth depth, rfl, ?_, ?_⟩, fun s => exec_ret_of_empty⟩
  · simp only [State.setPc_sp, State.setSp_sp]
    bv_omega
  · exact (changesOnly_setSp s (.inr rfl) _).trans (changesOnly_setPc _ (.inl rfl) _)

/-! ## CALL (R63) -/

theorem exec_call_of_depth {nnn : BitVec 12} {s : State} {i : Fin 16} (depth : s.sp.toNat = i.val) :
    exec (.call nnn) s = .next (((s.setStackEntry i.val s.pc).setSp (s.sp + 1#8)).setPc (zextAddr nnn)) := by
  have room : ¬ s.sp.toNat ≥ Config.stackDepth := by
    rw [depth]
    exact Nat.not_le.2 i.isLt
  rw [← depth]
  exact if_neg room

theorem exec_call_of_full {nnn : BitVec 12} {s : State} (full : s.sp.toNat ≥ 16) :
    exec (.call nnn) s = raise .stackOverflow s :=
  if_pos full

/-- Settles O30: the entry CALL writes is the one at the depth it leaves, so it is the one a RET pops. -/
theorem callPushesAndReturnComesBack : Obligations.CallPushesAndReturnComesBack := by
  unfold Obligations.CallPushesAndReturnComesBack
  refine ⟨decodeWord_call, fun nnn s i depth => ?_, fun _ _ => exec_call_of_full⟩
  have pushed : (s.setStackEntry i.val s.pc).stack[i] = s.pc := (s.setStackEntry_get _ _ i).trans (if_pos rfl)
  have deeper : (s.sp + 1#8).toNat = i.val + 1 := by bv_omega
  refine ⟨_, exec_call_of_depth depth, pushed, deeper, zextAddr_toNat nnn, ?_, fun pc => ?_⟩
  · exact ((changesOnly_setStackEntry s (.inl rfl) _).trans (changesOnly_setSp _ (.inr (.inl rfl)) _)).trans
      (changesOnly_setPc _ (.inr (.inr rfl)) _)
  · exact ⟨_, exec_ret_of_depth deeper, pushed, BitVec.add_sub_cancel s.sp 1#8⟩

/-! ## JP and JP V0 (R62, R68) -/

/-- The largest sum is 0xFFF + 0xFF, so 16 bits hold it. -/
theorem toNat_zextAddr_add_zextByte (nnn : BitVec 12) (v : Byte) :
    (zextAddr nnn + zextByte v).toNat = nnn.toNat + v.toNat := by
  rw [BitVec.toNat_add, zextAddr_toNat, zextByte_toNat]
  omega

/-- Settles O29: both write `PC` alone. -/
theorem jumpsLoadPc : Obligations.JumpsLoadPc := by
  unfold Obligations.JumpsLoadPc
  intro nnn s
  exact ⟨decodeWord_jp nnn, decodeWord_jpV0 nnn,
    ⟨_, rfl, zextAddr_toNat nnn, changesOnly_setPc s (by rfl) _⟩,
    ⟨_, rfl, toNat_zextAddr_add_zextByte nnn (s.reg 0), changesOnly_setPc s (by rfl) _⟩⟩

/-! ## The register skips (R64 to R67, R69) -/

theorem skipIf_beq_pc (s : State) (a b : Byte) :
    (s.skipIf (a == b)).pc = if a.toNat = b.toNat then s.pc + 2#16 else s.pc := by
  simp only [State.skipIf_pc, beq_iff_eq, BitVec.toNat_inj]

theorem skipIf_bne_pc (s : State) (a b : Byte) :
    (s.skipIf (a != b)).pc = if a.toNat = b.toNat then s.pc else s.pc + 2#16 := by
  simp only [State.skipIf_pc, bne_iff_ne, ne_eq, ite_not, BitVec.toNat_inj]

/-- Settles O31: each of the four is `skipIf` of its comparison, which writes `PC` alone. -/
theorem registerSkipsCompareAndSkip : Obligations.RegisterSkipsCompareAndSkip := by
  unfold Obligations.RegisterSkipsCompareAndSkip
  intro x y kk low s
  exact ⟨decodeWord_seByte x kk, decodeWord_sneByte x kk, decodeWord_seReg x y low, decodeWord_sneReg x y low,
    ⟨_, rfl, skipIf_beq_pc s _ _, changesOnly_skipIf s (by rfl) _⟩,
    ⟨_, rfl, skipIf_bne_pc s _ _, changesOnly_skipIf s (by rfl) _⟩,
    ⟨_, rfl, skipIf_beq_pc s _ _, changesOnly_skipIf s (by rfl) _⟩,
    ⟨_, rfl, skipIf_bne_pc s _ _, changesOnly_skipIf s (by rfl) _⟩⟩

end Sys2Proof.Machine
end

section
/-! PROOFS, family 41_alu.md: the words of the loads, the logic, the arithmetic and the shifts decode to them, and what each
stores in its register and in VF (R70 to R80, R82, R83). -/

namespace Sys2Proof

/-! ## Decoding (R49) -/

theorem decodeWord_ldByte (x : Reg) (kk : Byte) : decodeWord (formatXK 0x6#4 x kk) = .ok (.ldByte x kk) :=
  decodeWord_of_fixedBits (Laws.FixedBits.ldByte x kk)

theorem decodeWord_addByte (x : Reg) (kk : Byte) : decodeWord (formatXK 0x7#4 x kk) = .ok (.addByte x kk) :=
  decodeWord_of_fixedBits (Laws.FixedBits.addByte x kk)

section
variable (x y : Reg)

theorem decodeWord_ldReg : decodeWord (formatXY 0x8#4 x y 0x0#4) = .ok (.ldReg x y) :=
  decodeWord_of_fixedBits (Laws.FixedBits.ldReg x y)

theorem decodeWord_orReg : decodeWord (formatXY 0x8#4 x y 0x1#4) = .ok (.orReg x y) :=
  decodeWord_of_fixedBits (Laws.FixedBits.orReg x y)

theorem decodeWord_andReg : decodeWord (formatXY 0x8#4 x y 0x2#4) = .ok (.andReg x y) :=
  decodeWord_of_fixedBits (Laws.FixedBits.andReg x y)

theorem decodeWord_xorReg : decodeWord (formatXY 0x8#4 x y 0x3#4) = .ok (.xorReg x y) :=
  decodeWord_of_fixedBits (Laws.FixedBits.xorReg x y)

theorem decodeWord_addReg : decodeWord (formatXY 0x8#4 x y 0x4#4) = .ok (.addReg x y) :=
  decodeWord_of_fixedBits (Laws.FixedBits.addReg x y)

theorem decodeWord_subReg : decodeWord (formatXY 0x8#4 x y 0x5#4) = .ok (.subReg x y) :=
  decodeWord_of_fixedBits (Laws.FixedBits.subReg x y)

theorem decodeWord_shr : decodeWord (formatXY 0x8#4 x y 0x6#4) = .ok (.shr x y) :=
  decodeWord_of_fixedBits (Laws.FixedBits.shr x y)

theorem decodeWord_subnReg : decodeWord (formatXY 0x8#4 x y 0x7#4) = .ok (.subnReg x y) :=
  decodeWord_of_fixedBits (Laws.FixedBits.subnReg x y)

theorem decodeWord_shl : decodeWord (formatXY 0x8#4 x y 0xE#4) = .ok (.shl x y) :=
  decodeWord_of_fixedBits (Laws.FixedBits.shl x y)

end

end Sys2Proof

namespace Sys2Proof.Machine

/-! ## One register written (R70 to R75) -/

theorem changesOnly_setReg {w : Elem → Prop} (s : State) {r : Reg} (owned : w (.v r)) (v : Byte) :
    ChangesOnly w s (s.setReg r v) := by
  intro e kept
  cases e with
  | v q =>
    have other : q ≠ r := fun same => kept (same ▸ owned)
    exact s.setReg_reg_other v other
  | _ => rfl

/-- Settles O32: each of the three is one write of its register. -/
theorem byteAndRegisterLoadsAndByteAdd : Obligations.ByteAndRegisterLoadsAndByteAdd := by
  unfold Obligations.ByteAndRegisterLoadsAndByteAdd
  intro x y kk s
  refine ⟨decodeWord_ldByte x kk, decodeWord_addByte x kk, decodeWord_ldReg x y,
    ⟨_, rfl, s.setReg_reg_same x _, changesOnly_setReg s (by rfl) _⟩,
    ⟨_, rfl, ?_, changesOnly_setReg s (by rfl) _⟩,
    ⟨_, rfl, s.setReg_reg_same x _, changesOnly_setReg s (by rfl) _⟩⟩
  rw [State.setReg_reg_same, sumOf_toNat]

/-- Settles O33: each of the three is one write of its register, with the bit-vector operation that acts bit by bit. -/
theorem logicIsBitwise : Obligations.LogicIsBitwise := by
  unfold Obligations.LogicIsBitwise
  intro x y s
  refine ⟨decodeWord_orReg x y, decodeWord_andReg x y, decodeWord_xorReg x y,
    ⟨_, rfl, fun i => ?_, changesOnly_setReg s (by rfl) _⟩,
    ⟨_, rfl, fun i => ?_, changesOnly_setReg s (by rfl) _⟩,
    ⟨_, rfl, fun i => ?_, changesOnly_setReg s (by rfl) _⟩⟩
  · rw [State.setReg_reg_same, BitVec.getLsbD_or]
  · rw [State.setReg_reg_same, BitVec.getLsbD_and]
  · rw [State.setReg_reg_same, BitVec.getLsbD_xor]

/-! ## A flag and a result written (R82) -/

section
variable (x : Reg) (flag : State → Bool) (result : State → Byte) (s : State)

/-- For every x: with x = 15 the result is written over the flag. -/
theorem writeFlagAndResult_reg_result : (writeFlagAndResult x flag result s).reg x = result s := by
  rw [writeFlagAndResult_reg, if_pos rfl]

theorem writeFlagAndResult_reg_flag (notFlag : x ≠ 15) :
    (writeFlagAndResult x flag result s).reg 15 = flagByte (flag s) := by
  rw [writeFlagAndResult_reg, if_neg notFlag.symm, if_pos rfl]

theorem changesOnly_writeFlagAndResult :
    ChangesOnly (fun e => e = .v x ∨ e = .v 15) s (writeFlagAndResult x flag result s) :=
  (changesOnly_setReg s (.inr rfl) _).trans (changesOnly_setReg _ (.inl rfl) _)

end

/-! ## The flags and the difference in numbers (R76 to R80, R83) -/

theorem toNat_flagByte_carryOf (a b : Byte) :
    (flagByte (carryOf a b)).toNat = if a.toNat + b.toNat > 255 then 1 else 0 := by
  simp [flagByte_toNat, carryOf]

theorem toNat_flagByte_noBorrowOf (a b : Byte) :
    (flagByte (noBorrowOf a b)).toNat = if a.toNat ≥ b.toNat then 1 else 0 := by
  simp [flagByte_toNat, noBorrowOf]

theorem toNat_flagByte_lostByShr (v : Byte) : (flagByte (lostByShr v)).toNat = v.toNat % 2 := by
  rw [flagByte_toNat, lostByShr, BitVec.getLsbD, Nat.testBit_zero]
  simp only [decide_eq_true_eq]
  split <;> omega

theorem toNat_flagByte_lostByShl (v : Byte) : (flagByte (lostByShl v)).toNat = v.toNat / 128 := by
  have := v.isLt
  rw [flagByte_toNat, lostByShl, BitVec.getLsbD, Nat.testBit_eq_decide_div_mod_eq]
  simp only [decide_eq_true_eq]
  split <;> omega

/-- The integer remainder by 256 is never negative, so it is the stored difference whether or not there is a borrow. -/
theorem differenceOf_toInt (a b : Byte) : ((differenceOf a b).toNat : Int) = ((a.toNat : Int) - b.toNat) % 256 := by
  have := b.isLt
  rw [differenceOf_toNat]
  omega

/-! ## ADD, SUB, SUBN, SHR and SHL (R76 to R80) -/

/-- Settles O34: the flag is the carry of the sum that is stored. -/
theorem addStoresTheSumAndTheCarry : Obligations.AddStoresTheSumAndTheCarry := by
  unfold Obligations.AddStoresTheSumAndTheCarry
  intro x y s
  refine ⟨decodeWord_addReg x y, _, rfl, ?_, fun notFlag => ?_, changesOnly_writeFlagAndResult x _ _ s⟩
  · rw [writeFlagAndResult_reg_result, sumOf_toNat]
  · rw [writeFlagAndResult_reg_flag _ _ _ _ notFlag, toNat_flagByte_carryOf]

/-- Settles O35: the two differ in which operand is the minuend. -/
theorem subtractsStoreTheDifferenceAndNoBorrow : Obligations.SubtractsStoreTheDifferenceAndNoBorrow := by
  unfold Obligations.SubtractsStoreTheDifferenceAndNoBorrow
  intro x y s
  refine ⟨decodeWord_subReg x y, decodeWord_subnReg x y,
    ⟨_, rfl, ?_, fun notFlag => ?_, changesOnly_writeFlagAndResult x _ _ s⟩,
    ⟨_, rfl, ?_, fun notFlag => ?_, changesOnly_writeFlagAndResult x _ _ s⟩⟩
  · rw [writeFlagAndResult_reg_result, differenceOf_toInt]
  · rw [writeFlagAndResult_reg_flag _ _ _ _ notFlag, toNat_flagByte_noBorrowOf]
  · rw [writeFlagAndResult_reg_result, differenceOf_toInt]
  · rw [writeFlagAndResult_reg_flag _ _ _ _ notFlag, toNat_flagByte_noBorrowOf]

/-- Settles O36: the operand of both is `V[x]` (`shiftOperand_eq`), and the flag is the bit the shift drops. -/
theorem shiftsStoreTheValueAndTheLostBit : Obligations.ShiftsStoreTheValueAndTheLostBit := by
  unfold Obligations.ShiftsStoreTheValueAndTheLostBit
  intro x y s
  refine ⟨decodeWord_shr x y, decodeWord_shl x y,
    ⟨_, rfl, ?_, fun notFlag => ?_, changesOnly_writeFlagAndResult x _ _ s⟩,
    ⟨_, rfl, ?_, fun notFlag => ?_, changesOnly_writeFlagAndResult x _ _ s⟩⟩
  · rw [writeFlagAndResult_reg_result, shiftedRight_toNat, shiftOperand_eq]
  · rw [writeFlagAndResult_reg_flag _ _ _ _ notFlag, toNat_flagByte_lostByShr, shiftOperand_eq]
  · rw [writeFlagAndResult_reg_result, shiftedLeft_toNat, shiftOperand_eq]
  · rw [writeFlagAndResult_reg_flag _ _ _ _ notFlag, toNat_flagByte_lostByShl, shiftOperand_eq]

end Sys2Proof.Machine
end

section
/-! PROOFS, family 42_index_memory.md: the words of the index and memory instructions decode to them, and what each stores in
`I`, in memory or in the registers (R85 to R90). -/

namespace Sys2Proof

/-! ## Decoding (R49) -/

theorem decodeWord_ldI (nnn : BitVec 12) : decodeWord (formatA 0xA#4 nnn) = .ok (.ldI nnn) :=
  decodeWord_of_fixedBits (Laws.FixedBits.ldI nnn)

section
variable (x : Reg)

theorem decodeWord_addI : decodeWord (formatX 0xF#4 x 0x1E#8) = .ok (.addI x) :=
  decodeWord_of_fixedBits (Laws.FixedBits.addI x)

theorem decodeWord_ldF : decodeWord (formatX 0xF#4 x 0x29#8) = .ok (.ldF x) :=
  decodeWord_of_fixedBits (Laws.FixedBits.ldF x)

theorem decodeWord_ldB : decodeWord (formatX 0xF#4 x 0x33#8) = .ok (.ldB x) :=
  decodeWord_of_fixedBits (Laws.FixedBits.ldB x)

theorem decodeWord_ldMemVx : decodeWord (formatX 0xF#4 x 0x55#8) = .ok (.ldMemVx x) :=
  decodeWord_of_fixedBits (Laws.FixedBits.ldMemVx x)

theorem decodeWord_ldVxMem : decodeWord (formatX 0xF#4 x 0x65#8) = .ok (.ldVxMem x) :=
  decodeWord_of_fixedBits (Laws.FixedBits.ldVxMem x)

end

end Sys2Proof

namespace Sys2Proof.Machine

/-! ## Frames of the index, of a block store and of a block load (R29) -/

section
variable {w : Elem → Prop} (s : State)

theorem changesOnly_setIndex (owned : w .index) (v : Word) : ChangesOnly w s (s.setIndex v) := by
  intro e kept
  cases e with
  | index => exact absurd owned kept
  | _ => rfl

theorem changesOnly_writeBlock {base : Nat} {bs : List Byte} (owned : ∀ k < bs.length, w (.mem (base + k))) :
    ChangesOnly w s (s.setMem (s.mem.writeBlock base bs)) := by
  intro e kept
  cases e with
  | mem a =>
    have outside : ¬ (base ≤ a ∧ a < base + bs.length) := by
      rintro ⟨low, high⟩
      obtain ⟨k, rfl⟩ := Nat.exists_eq_add_of_le low
      exact kept (owned k (by omega))
    exact (Memory.read_writeBlock ..).trans (dif_neg outside)
  | _ => rfl

theorem changesOnly_loadRegs {rs : List Reg} (owned : ∀ r ∈ rs, w (.v r)) : ChangesOnly w s (loadRegs rs s) := by
  induction rs generalizing s with
  | nil => exact .refl w s
  | cons r rs ih =>
    obtain ⟨head, tail⟩ := List.forall_mem_cons.1 owned
    exact (changesOnly_setReg s head _).trans (ih _ tail)

end

/-! ## LD I, ADD I and LD F (R85 to R87) -/

/-- Settles O38: each of the three is one write of `I`. -/
theorem indexInstructionsWriteOnlyTheIndex : Obligations.IndexInstructionsWriteOnlyTheIndex := by
  unfold Obligations.IndexInstructionsWriteOnlyTheIndex
  intro nnn x s
  exact ⟨decodeWord_ldI nnn, decodeWord_addI x, decodeWord_ldF x,
    ⟨_, rfl, zextAddr_toNat nnn, changesOnly_setIndex s (by rfl) _⟩,
    ⟨_, rfl, indexPlus_toNat (s.reg x) s, changesOnly_setIndex s (by rfl) _⟩,
    ⟨_, rfl, glyphAddr_toNat (s.reg x), changesOnly_setIndex s (by rfl) _⟩⟩

/-! ## The data accesses by whether they are valid (R32, R88 to R90, R110) -/

section
variable {x : Reg} {s : State}

theorem exec_ldB_of_invalid (h : s.index.toNat + 2 > 0xFFF) : exec (.ldB x) s = raise .dataOutOfRange s :=
  if_neg (mt (indexBlockValid_iff s 3).1 (by omega))

theorem exec_ldMemVx_of_invalid (h : s.index.toNat + x.val > 0xFFF) : exec (.ldMemVx x) s = raise .dataOutOfRange s :=
  if_neg (mt (indexBlockValid_iff s (x.val + 1)).1 (by omega))

theorem exec_ldVxMem_of_invalid (h : s.index.toNat + x.val > 0xFFF) : exec (.ldVxMem x) s = raise .dataOutOfRange s :=
  if_neg (mt (indexBlockValid_iff s (x.val + 1)).1 (by omega))

theorem exec_ldVxMem_of_valid (h : s.index.toNat + x.val ≤ 0xFFF) :
    exec (.ldVxMem x) s = .next (loadRegs (regsUpTo x) s) :=
  if_pos ((indexBlockValid_iff s (x.val + 1)).2 (by omega))

end

/-! ## LD B (R88) -/

/-- Each digit fits in a byte, so storing it loses nothing. -/
theorem toNat_byteAfterBcd (x : Reg) (s : State) :
    (byteAfterBcd x s (effectiveAddr s 0)).toNat = (s.reg x).toNat / 100 ∧
    (byteAfterBcd x s (effectiveAddr s 1)).toNat = (s.reg x).toNat / 10 % 10 ∧
    (byteAfterBcd x s (effectiveAddr s 2)).toNat = (s.reg x).toNat % 10 := by
  have := (s.reg x).isLt
  refine ⟨?_, ?_, ?_⟩ <;> simp (disch := omega) [byteAfterBcd, effectiveAddr, Nat.mod_eq_of_lt]

/-- Settles O39: the block written is the three digits. -/
theorem bcdStoresThreeDigits : Obligations.BcdStoresThreeDigits := by
  unfold Obligations.BcdStoresThreeDigits
  refine fun x s => ⟨decodeWord_ldB x, fun valid => ?_, exec_ldB_of_invalid⟩
  obtain ⟨hundreds, tens, units⟩ := toNat_byteAfterBcd x s
  refine ⟨_, exec_ldB_of_valid valid, ?_, ?_, ?_, changesOnly_writeBlock s fun k hk => ⟨k, hk, rfl⟩⟩
  all_goals rwa [State.setMem_mem, read_bcdStore]

/-! ## LD [I] (R89) -/

theorem byteAfterBlockStore_effectiveAddr (s : State) {x i : Reg} (stored : i ≤ x) :
    byteAfterBlockStore x s (effectiveAddr s i.val) = s.reg i := by
  have inRange : s.index.toNat ≤ effectiveAddr s i.val ∧ effectiveAddr s i.val ≤ s.index.toNat + x.val :=
    ⟨Nat.le_add_right _ _, Nat.add_le_add_left stored _⟩
  rw [byteAfterBlockStore, if_pos inRange, effectiveAddr, Nat.add_sub_cancel_left, Fin.ofNat_val_eq_self]

/-- Settles O40: the block written is registers 0 to x, of which there are x + 1. -/
theorem blockStoreCopiesTheRegisters : Obligations.BlockStoreCopiesTheRegisters := by
  unfold Obligations.BlockStoreCopiesTheRegisters
  refine fun x s => ⟨decodeWord_ldMemVx x, fun valid => ?_, exec_ldMemVx_of_invalid⟩
  refine ⟨_, exec_ldMemVx_of_valid valid, fun i stored => ?_, changesOnly_writeBlock s fun k hk => ?_⟩
  · rw [State.setMem_mem, read_blockStore, byteAfterBlockStore_effectiveAddr s stored]
  · rw [List.length_map, length_regsUpTo] at hk
    exact ⟨k, Nat.le_of_lt_succ hk, rfl⟩

/-! ## LD Vx,[I] (R90) -/

/-- Settles O41: the registers loaded are those of `regsUpTo x`, each once and from memory, which no load writes. -/
theorem blockLoadCopiesTheBytes : Obligations.BlockLoadCopiesTheBytes := by
  unfold Obligations.BlockLoadCopiesTheBytes
  refine fun x s => ⟨decodeWord_ldVxMem x, fun valid => ?_, exec_ldVxMem_of_invalid⟩
  refine ⟨_, exec_ldVxMem_of_valid valid, fun i loaded => ?_, changesOnly_loadRegs s fun r hr => ?_⟩
  · exact (loadRegs_reg _ s i).trans (if_pos ((mem_regsUpTo x i).2 loaded))
  · exact ⟨r, (mem_regsUpTo x r).1 hr, rfl⟩

end Sys2Proof.Machine
end

section
/-! PROOFS, family 43_display.md: the words of CLS and DRW decode to them, and what each does to the framebuffer, to UD and to
VF (R92 to R95). -/

namespace Sys2Proof

/-! ## Decoding (R49) -/

/-- Whatever bits 11:8, which no field of the row reads (R51, R92). -/
theorem decodeWord_cls (x : Reg) : decodeWord (formatX 0x0#4 x 0xE0#8) = .ok .cls :=
  decodeWord_of_fixedBits ((formatX_fixed _ _ _).trans rfl)

theorem decodeWord_drw (x y : Reg) (n : Fin 16) : decodeWord (formatXY 0xD#4 x y (nibbleOf n)) = .ok (.drw x y n) :=
  decodeWord_of_fixedBits (Laws.FixedBits.drw x y n)

end Sys2Proof

namespace Sys2Proof.Machine

/-! ## Frames of the framebuffer and of UD (R29) -/

section
variable {w : Elem → Prop} (s : State)

theorem changesOnly_setVideo (owned : ∀ c, w (.cell c)) (v : Video) : ChangesOnly w s (s.setVideo v) := by
  intro e kept
  cases e with
  | cell c => exact absurd (owned c) kept
  | _ => rfl

theorem changesOnly_setDirty (owned : w .dirty) (b : Bool) : ChangesOnly w s (s.setDirty b) := by
  intro e kept
  cases e with
  | dirty => exact absurd owned kept
  | _ => rfl

end

/-! ## CLS (R92) -/

/-- Settles O43: the framebuffer CLS writes holds `false` in every cell. -/
theorem clearScreenTurnsEveryCellOff : Obligations.ClearScreenTurnsEveryCellOff := by
  unfold Obligations.ClearScreenTurnsEveryCellOff
  refine ⟨decodeWord_cls, fun s => ⟨_, rfl, fun c => Vector.getElem_replicate c.isLt, rfl, ?_⟩⟩
  exact (changesOnly_setVideo s (fun c => .inr ⟨c, rfl⟩) _).trans (changesOnly_setDirty _ (.inl rfl) _)

/-! ## Pixels and cells (R94) -/

theorem exists_cell_of_pixel {px py : Nat} (hx : px < 64) (hy : py < 32) : ∃ c : CellIdx, c.val = py * 64 + px :=
  ⟨⟨py * 64 + px, by omega⟩, rfl⟩

theorem exists_pixel_of_cell (c : CellIdx) : ∃ px py, px < 64 ∧ py < 32 ∧ c.val = py * 64 + px :=
  ⟨c.val % 64, c.val / 64, by omega, by omega, by omega⟩

theorem lit_iff {px py : Nat} {c : CellIdx} (hc : c.val = py * 64 + px) (s : State) :
    Lit s px py ↔ s.video[c] = true := by
  simp [Lit, ← hc]

/-! ## The values of VF (R11) -/

theorem flagByte_eq_one_iff (b : Bool) : flagByte b = 1#8 ↔ b = true := by cases b <;> decide

theorem flagByte_eq_one_or_zero (b : Bool) : flagByte b = 1#8 ∨ flagByte b = 0#8 := by cases b <;> decide

/-! ## The sprite of a DRW (R93, R95) -/

section
variable (x y : Reg) (n : Fin 16) (s : State)

/-- The cells under the 1 bits of the sprite of `DRW Vx, Vy, n`. -/
def drawCells : List CellIdx :=
  spriteCells ((s.reg x).toNat % 64) ((s.reg y).toNat % 32) (s.mem.readBlock (effectiveAddr s 0) n.val)

theorem nodup_drawCells : (drawCells x y n s).Nodup :=
  nodup_spriteCells _ _ _ (by rw [Memory.length_readBlock]; omega)

theorem toggleCells_drawCells_collision_iff :
    (toggleCells s.video (drawCells x y n s)).2 = true ↔ ∃ c ∈ drawCells x y n s, s.video[c] = true :=
  (foldl_toggleCell _ s.video false (nodup_drawCells x y n s)).2.trans (by simp)

/-- The framebuffer and VF after the toggles, with UD set. -/
def drawnState : State :=
  ((s.setReg vf (flagByte (toggleCells s.video (drawCells x y n s)).2)).setVideo
    (toggleCells s.video (drawCells x y n s)).1).setDirty true

theorem drawnState_video_getElem (c : CellIdx) :
    (drawnState x y n s).video[c] = if c ∈ drawCells x y n s then !s.video[c] else s.video[c] :=
  (foldl_toggleCell _ s.video false (nodup_drawCells x y n s)).1 c

theorem drawnState_reg_vf :
    (drawnState x y n s).reg 15 = flagByte (toggleCells s.video (drawCells x y n s)).2 :=
  s.setReg_reg_same vf _

theorem changesOnly_drawnState :
    ChangesOnly (fun e => e = .v 15 ∨ e = .dirty ∨ ∃ c, e = .cell c) s (drawnState x y n s) :=
  ((changesOnly_setReg s (.inl rfl) _).trans (changesOnly_setVideo _ (fun c => .inr (.inr ⟨c, rfl⟩)) _)).trans
    (changesOnly_setDirty _ (.inr (.inl rfl)) _)

end

section
variable {x y : Reg} {n : Fin 16} {s : State}

theorem exec_drw_of_valid (h : n.val = 0 ∨ s.index.toNat + (n.val - 1) ≤ 0xFFF) :
    exec (.drw x y n) s = .next (drawnState x y n s) :=
  if_pos ((indexBlockValid_iff s n.val).2 (by omega))

theorem exec_drw_of_invalid (hasRow : n.val ≠ 0) (h : s.index.toNat + (n.val - 1) > 0xFFF) :
    exec (.drw x y n) s = raise .dataOutOfRange s :=
  if_neg (mt (indexBlockValid_iff s n.val).1 (by omega))

theorem SpriteCovers.on_screen {px py : Nat} (h : SpriteCovers s x y n px py) : px < 64 ∧ py < 32 := by
  obtain ⟨row, col, -, -, -, rfl, rfl⟩ := h
  exact ⟨Nat.mod_lt _ (by omega), Nat.mod_lt _ (by omega)⟩

/-- A number below 2048 names its row and its column, so the cells listed are the pixels covered. -/
theorem mem_drawCells_iff {px py : Nat} {c : CellIdx} (hx : px < 64) (hc : c.val = py * 64 + px) :
    c ∈ drawCells x y n s ↔ SpriteCovers s x y n px py := by
  rw [drawCells, mem_spriteCells]
  constructor
  · rintro ⟨row, hrow, col, hcol, bit, cell⟩
    rw [Memory.getElem_readBlock] at bit
    exact ⟨row, col, by simpa using hrow, hcol, bit, by omega, by omega⟩
  · rintro ⟨row, col, hrow, hcol, bit, rfl, rfl⟩
    refine ⟨row, by simpa using hrow, col, hcol, ?_, hc⟩
    rw [Memory.getElem_readBlock]
    exact bit

theorem lit_drawnState_iff {px py : Nat} (hx : px < 64) (hy : py < 32) :
    Lit (drawnState x y n s) px py ↔
      (Lit s px py ∧ ¬ SpriteCovers s x y n px py) ∨ (¬ Lit s px py ∧ SpriteCovers s x y n px py) := by
  obtain ⟨c, hc⟩ := exists_cell_of_pixel hx hy
  rw [lit_iff hc, lit_iff hc, drawnState_video_getElem, ← mem_drawCells_iff hx hc]
  by_cases covered : c ∈ drawCells x y n s <;> simp [covered]

theorem drawnState_reg_vf_eq_one_iff :
    (drawnState x y n s).reg 15 = 1#8 ↔ ∃ px py, SpriteCovers s x y n px py ∧ Lit s px py := by
  rw [drawnState_reg_vf, flagByte_eq_one_iff, toggleCells_drawCells_collision_iff]
  constructor
  · rintro ⟨c, covered, lit⟩
    obtain ⟨px, py, hx, -, hc⟩ := exists_pixel_of_cell c
    exact ⟨px, py, (mem_drawCells_iff hx hc).1 covered, (lit_iff hc s).2 lit⟩
  · rintro ⟨px, py, covered, lit⟩
    obtain ⟨hx, hy⟩ := covered.on_screen
    obtain ⟨c, hc⟩ := exists_cell_of_pixel hx hy
    exact ⟨c, (mem_drawCells_iff hx hc).2 covered, (lit_iff hc s).1 lit⟩

end

/-! ## DRW (R93 to R95) -/

/-- Settles O44: no cell is toggled twice (`nodup_drawCells`), so each one covered is inverted and VF tells of its old
value. -/
theorem drawInvertsTheCoveredCells : Obligations.DrawInvertsTheCoveredCells := by
  unfold Obligations.DrawInvertsTheCoveredCells
  refine fun x y n s => ⟨decodeWord_drw x y n, fun valid => ?_, exec_drw_of_invalid⟩
  refine ⟨_, exec_drw_of_valid valid, fun px py => lit_drawnState_iff, ?_, drawnState_reg_vf_eq_one_iff, rfl,
    changesOnly_drawnState x y n s⟩
  rw [drawnState_reg_vf]
  exact flagByte_eq_one_or_zero _

end Sys2Proof.Machine
end

section
/-! PROOFS, family 44_keys_timers.md: the words of the key and timer instructions decode to them, and what each does by the
keys and the timers (R96 to R101). -/

namespace Sys2Proof

/-! ## Decoding (R49) -/

section
variable (x : Reg)

theorem decodeWord_skp : decodeWord (formatX 0xE#4 x 0x9E#8) = .ok (.skp x) :=
  decodeWord_of_fixedBits (Laws.FixedBits.skp x)

theorem decodeWord_sknp : decodeWord (formatX 0xE#4 x 0xA1#8) = .ok (.sknp x) :=
  decodeWord_of_fixedBits (Laws.FixedBits.sknp x)

theorem decodeWord_ldVxDt : decodeWord (formatX 0xF#4 x 0x07#8) = .ok (.ldVxDt x) :=
  decodeWord_of_fixedBits (Laws.FixedBits.ldVxDt x)

theorem decodeWord_ldVxK : decodeWord (formatX 0xF#4 x 0x0A#8) = .ok (.ldVxK x) :=
  decodeWord_of_fixedBits (Laws.FixedBits.ldVxK x)

theorem decodeWord_ldDtVx : decodeWord (formatX 0xF#4 x 0x15#8) = .ok (.ldDtVx x) :=
  decodeWord_of_fixedBits (Laws.FixedBits.ldDtVx x)

theorem decodeWord_ldStVx : decodeWord (formatX 0xF#4 x 0x18#8) = .ok (.ldStVx x) :=
  decodeWord_of_fixedBits (Laws.FixedBits.ldStVx x)

end

end Sys2Proof

namespace Sys2Proof.Machine

/-! ## SKP and SKNP (R96, R97) -/

section
variable {x : Reg} {s : State}

theorem keyAt_of_named {i : Fin 16} (named : (s.reg x).toNat = i.val) : keyAt s (s.reg x) = some s.keys[i] := by
  rw [keyAt_of_lt s (by omega)]
  simp [named]

theorem exec_skp_of_named {i : Fin 16} (named : (s.reg x).toNat = i.val) :
    exec (.skp x) s = .next (s.skipIf s.keys[i]) := by
  simp only [exec, execSkp, keyAt_of_named named]

theorem exec_sknp_of_named {i : Fin 16} (named : (s.reg x).toNat = i.val) :
    exec (.sknp x) s = .next (s.skipIf !s.keys[i]) := by
  simp only [exec, execSknp, keyAt_of_named named]

theorem exec_skp_of_noKey (noKey : (s.reg x).toNat > 15) : exec (.skp x) s = raise .keyIndexOutOfRange s := by
  simp only [exec, execSkp, keyAt_of_ge s noKey]

theorem exec_sknp_of_noKey (noKey : (s.reg x).toNat > 15) : exec (.sknp x) s = raise .keyIndexOutOfRange s := by
  simp only [exec, execSknp, keyAt_of_ge s noKey]

end

theorem skipIf_not_pc (s : State) (c : Bool) : (s.skipIf !c).pc = if c then s.pc else s.pc + 2#16 := by
  cases c <;> rfl

/-- Settles O46: up to 15 both are `skipIf` of the key named or of its negation, above 15 both raise. -/
theorem keySkipsFollowTheNamedKey : Obligations.KeySkipsFollowTheNamedKey := by
  unfold Obligations.KeySkipsFollowTheNamedKey
  refine fun x s => ⟨decodeWord_skp x, decodeWord_sknp x, fun i named => ⟨?_, ?_⟩, fun noKey =>
    ⟨exec_skp_of_noKey noKey, exec_sknp_of_noKey noKey⟩⟩
  · exact ⟨_, exec_skp_of_named named, s.skipIf_pc _, changesOnly_skipIf s (by rfl) _⟩
  · exact ⟨_, exec_sknp_of_named named, skipIf_not_pc s _, changesOnly_skipIf s (by rfl) _⟩

/-! ## LD Vx,K (R98) -/

section
variable {x : Reg} {s : State}

theorem exec_ldVxK_of_leastPressed {i : Fin 16} (pressed : s.keys[i] = true)
    (least : ∀ j : Fin 16, j < i → s.keys[j] = false) :
    exec (.ldVxK x) s = .next (s.setReg x (BitVec.ofNat 8 i.val)) := by
  simp only [exec, execLdVxK, (firstPressed_eq_some s i).2 ⟨pressed, least⟩]

theorem exec_ldVxK_of_noKeyPressed (released : ∀ i : Fin 16, s.keys[i] = false) :
    exec (.ldVxK x) s = .next s.rewind := by
  simp only [exec, execLdVxK, (firstPressed_eq_none s).2 released]

/-- The step over a word of the table runs its instruction after the fetch's advance (R57). -/
theorem step_of_decoded {raw : Word} {i : Instr} (running : s.latch = none) (fetched : fetchWord s = some raw)
    (decoded : decodeWord raw = .ok i) : step s = exec i s.advance := by
  simp only [step, running, fetched, decoded]

/-- The handler's rewind undoes the fetch's advance, so the wait is a step that leaves the state as it was. -/
theorem step_ldVxK_of_noKeyPressed (running : s.latch = none)
    (fetched : fetchWord s = some (formatX 0xF#4 x 0x0A#8)) (released : ∀ i : Fin 16, s.keys[i] = false) :
    step s = .next s := by
  calc step s
    _ = exec (.ldVxK x) s.advance := step_of_decoded running fetched (decodeWord_ldVxK x)
    _ = .next s.advance.rewind := exec_ldVxK_of_noKeyPressed released
    _ = .next s := by rw [State.rewind_advance]

end

/-- A key number fits in a byte, so storing it loses nothing. -/
theorem toNat_setReg_keyNumber (s : State) (x : Reg) (i : Fin 16) :
    ((s.setReg x (BitVec.ofNat 8 i.val)).reg x).toNat = i.val := by
  rw [State.setReg_reg_same, BitVec.toNat_ofNat]
  omega

/-- Settles O47: the two cases of `firstPressed`, and the step in which there is no pressed key. -/
theorem keyWaitStoresTheLeastKeyOrRepeats : Obligations.KeyWaitStoresTheLeastKeyOrRepeats := by
  unfold Obligations.KeyWaitStoresTheLeastKeyOrRepeats
  refine ⟨decodeWord_ldVxK, fun x s i pressed least => ?_, fun x s released => ?_,
    fun x s released running inRange word => ?_⟩
  · exact ⟨_, exec_ldVxK_of_leastPressed pressed least, toNat_setReg_keyNumber s x i, changesOnly_setReg s (by rfl) _⟩
  · exact ⟨_, exec_ldVxK_of_noKeyPressed released, rfl, changesOnly_setPc s (by rfl) _⟩
  · exact step_ldVxK_of_noKeyPressed running ((fetchWord_eq_some s _).2 ⟨inRange, word.symm⟩) released

/-! ## Frames of the timers (R29) -/

section
variable {w : Elem → Prop} (s : State)

theorem changesOnly_setDelayTimer (owned : w .delayTimer) (v : Byte) : ChangesOnly w s (s.setDelayTimer v) := by
  intro e kept
  cases e with
  | delayTimer => exact absurd owned kept
  | _ => rfl

theorem changesOnly_setSoundTimer (owned : w .soundTimer) (v : Byte) : ChangesOnly w s (s.setSoundTimer v) := by
  intro e kept
  cases e with
  | soundTimer => exact absurd owned kept
  | _ => rfl

end

/-! ## The timer moves (R99 to R101) -/

/-- Settles O48: each of the three is one write, of a register or of a timer. -/
theorem timerMovesCopyOneByte : Obligations.TimerMovesCopyOneByte := by
  unfold Obligations.TimerMovesCopyOneByte
  intro x s
  exact ⟨decodeWord_ldVxDt x, decodeWord_ldDtVx x, decodeWord_ldStVx x,
    ⟨_, rfl, s.setReg_reg_same x _, changesOnly_setReg s (by rfl) _⟩,
    ⟨_, rfl, rfl, changesOnly_setDelayTimer s (by rfl) _⟩,
    ⟨_, rfl, rfl, changesOnly_setSoundTimer s (by rfl) _⟩⟩

end Sys2Proof.Machine
end

section
/-! PROOFS, family 60_exceptions.md: when an engine step raises a fault and what it leaves (R110, R111), the halt after it
(R112), and the host events of the timers, the keys and the display (R120 to R122). -/

namespace Sys2Proof.Machine

/-! ## An instruction by what the table of R110 says it is due -/

section
variable {i : Instr} {s : State}

/-- A handler that raises the cause of a row under the row's condition raises the cause due (R110). -/
theorem eq_raise_of_row {p : Prop} [Decidable p] {cause c : FaultCause} {o : Host.Outcome State Fault Refusal}
    (due : (if p then some cause else none) = some c) (raised : p → o = raise cause s) : o = raise c s := by
  obtain ⟨condition, ⟨⟩⟩ := Option.ite_none_right_eq_some.1 due
  exact raised condition

/-- The eight instructions with a row in the table test its condition; the others are due nothing (R110). -/
theorem exec_of_due {c : FaultCause} (due : dueOf i s = some c) : exec i s = raise c s := by
  cases i with
  | drw => exact eq_raise_of_row due fun ⟨hasRow, outside⟩ => exec_drw_of_invalid (by omega) (by omega)
  | ldB => exact eq_raise_of_row due exec_ldB_of_invalid
  | ldMemVx => exact eq_raise_of_row due exec_ldMemVx_of_invalid
  | ldVxMem => exact eq_raise_of_row due exec_ldVxMem_of_invalid
  | call => exact eq_raise_of_row due exec_call_of_full
  | ret => exact eq_raise_of_row due exec_ret_of_empty
  | skp => exact eq_raise_of_row due exec_skp_of_noKey
  | sknp => exact eq_raise_of_row due exec_sknp_of_noKey
  | _ => cases due

/-- The one stop there is: at an `SP` above 16 there is no entry to pop (R15). -/
theorem exec_ret_of_noEntry (noEntry : s.sp.toNat > 16) : exec .ret s = .fault (.noStackEntry s.sp) := by
  have notEmpty : s.sp ≠ 0#8 := by
    intro empty
    simp [empty] at noEntry
  simp only [exec, execRet, if_neg notEmpty, s.stackEntry_of_ge (i := s.sp.toNat - 1) (by omega)]

/-- An instruction due no fault raises none; it has a next state unless it is a RET at an `SP` above 16 (R14, R110). -/
theorem exec_of_notDue (notDue : dueOf i s = none) :
    (∃ t, exec i s = .next t ∧ t.latch = s.latch) ∨ (s.sp.toNat > 16 ∧ exec i s = .fault (.noStackEntry s.sp)) := by
  cases i with
  | ret =>
    have notEmpty : s.sp.toNat ≠ 0 := by simpa [dueOf] using notDue
    by_cases noEntry : s.sp.toNat > 16
    · exact .inr ⟨noEntry, exec_ret_of_noEntry noEntry⟩
    · exact .inl ⟨_, exec_ret_of_depth (i := ⟨s.sp.toNat - 1, by omega⟩) (by simp only; omega), rfl⟩
  | drw x y n =>
    have inRange : ¬ (n.val > 0 ∧ s.index.toNat + n.val - 1 > 0xFFF) := by simpa [dueOf] using notDue
    exact .inl ⟨_, exec_drw_of_valid (by omega), rfl⟩
  | ldB =>
    have inRange : s.index.toNat + 2 ≤ 0xFFF := by simpa [dueOf] using notDue
    exact .inl ⟨_, exec_ldB_of_valid inRange, rfl⟩
  | ldMemVx x =>
    have inRange : s.index.toNat + x.val ≤ 0xFFF := by simpa [dueOf] using notDue
    exact .inl ⟨_, exec_ldMemVx_of_valid inRange, rfl⟩
  | ldVxMem x =>
    have inRange : s.index.toNat + x.val ≤ 0xFFF := by simpa [dueOf] using notDue
    exact .inl ⟨_, exec_ldVxMem_of_valid inRange, by rw [loadRegs_rest]⟩
  | call =>
    have room : s.sp.toNat < 16 := by simpa [dueOf] using notDue
    exact .inl ⟨_, exec_call_of_depth (i := ⟨s.sp.toNat, room⟩) rfl, rfl⟩
  | skp x =>
    have named : (s.reg x).toNat < 16 := by simpa [dueOf, Nat.lt_succ_iff] using notDue
    exact .inl ⟨_, exec_skp_of_named (i := ⟨_, named⟩) rfl, State.skipIf_latch ..⟩
  | sknp x =>
    have named : (s.reg x).toNat < 16 := by simpa [dueOf, Nat.lt_succ_iff] using notDue
    exact .inl ⟨_, exec_sknp_of_named (i := ⟨_, named⟩) rfl, State.skipIf_latch ..⟩
  | seByte | sneByte | seReg | sneReg => exact .inl ⟨_, rfl, State.skipIf_latch ..⟩
  | ldVxK x =>
    cases found : firstPressed s with
    | none => exact .inl ⟨s.rewind, by simp only [exec, execLdVxK, found], rfl⟩
    | some key => exact .inl ⟨s.setReg x (BitVec.ofNat 8 key.val), by simp only [exec, execLdVxK, found], rfl⟩
  | _ => exact .inl ⟨_, rfl, rfl⟩

/-- No row of the table reads `PC`, so the fetch's advance changes nothing of it (R57, R110). -/
theorem dueOf_advance (i : Instr) (s : State) : dueOf i s.advance = dueOf i s := by cases i <;> rfl

end

/-! ## A step by what the table of R110 says it is due -/

section
variable {s : State}

theorem fetchWord_eq_none_iff : fetchWord s = none ↔ s.pc.toNat > 0xFFE := by
  simp only [fetchWord, Config.memSize, ite_eq_right_iff, reduceCtorEq, imp_false]
  omega

theorem dueFault_of_noFetch (noFetch : fetchWord s = none) : dueFault s = some .fetchOutOfRange :=
  if_pos (fetchWord_eq_none_iff.1 noFetch)

theorem dueFault_of_decoded {raw : Word} {i : Instr} (fetched : fetchWord s = some raw)
    (decoded : decodeWord raw = .ok i) : dueFault s = dueOf i s := by
  obtain ⟨inRange, rfl⟩ := (fetchWord_eq_some s raw).1 fetched
  simp only [dueFault, decoded, if_neg (Nat.not_lt.2 inRange)]

theorem dueFault_of_unmatched {raw : Word} {r : Reject} (fetched : fetchWord s = some raw)
    (rejected : decodeWord raw = .error r) : dueFault s = none := by
  obtain ⟨inRange, rfl⟩ := (fetchWord_eq_some s raw).1 fetched
  simp only [dueFault, rejected, if_neg (Nat.not_lt.2 inRange)]

theorem step_of_noFetch (running : s.latch = none) (noFetch : fetchWord s = none) :
    step s = .next (s.setLatch (some .fetchOutOfRange)) := by
  simp only [step, running, noFetch, takeFault]

/-- What a step due a fault does: it latches the cause due, and that is all (R110, R111). -/
theorem step_of_due {c : FaultCause} (running : s.latch = none) (due : dueFault s = some c) :
    step s = .next (s.setLatch (some c)) := by
  cases fetched : fetchWord s with
  | none =>
    obtain rfl : FaultCause.fetchOutOfRange = c := Option.some.inj ((dueFault_of_noFetch fetched).symm.trans due)
    exact step_of_noFetch running fetched
  | some raw =>
    cases decoded : decodeWord raw with
    | error r => cases (dueFault_of_unmatched fetched decoded).symm.trans due
    | ok i =>
      have dueThen : dueOf i s.advance = some c := by
        rw [dueOf_advance, ← dueFault_of_decoded fetched decoded, due]
      rw [step_of_decoded running fetched decoded, exec_of_due dueThen, raise_advance]

/-- What a step due no fault does: it leaves the latch clear, unless it is a RET at an `SP` above 16 (R14, R110). -/
theorem step_of_notDue (running : s.latch = none) (notDue : dueFault s = none) :
    (∃ t, step s = .next t ∧ t.latch = none) ∨ (s.sp.toNat > 16 ∧ step s = .fault (.noStackEntry s.sp)) := by
  cases fetched : fetchWord s with
  | none => cases (dueFault_of_noFetch fetched).symm.trans notDue
  | some raw =>
    cases decoded : decodeWord raw with
    | error r => exact .inl ⟨_, step_of_unmatched running fetched decoded, running⟩
    | ok i =>
      have notDueThen : dueOf i s.advance = none := by
        rw [dueOf_advance, ← dueFault_of_decoded fetched decoded, notDue]
      rw [step_of_decoded running fetched decoded]
      obtain ⟨t, ran, kept⟩ | stopped := exec_of_notDue notDueThen
      · exact .inl ⟨t, ran, kept.trans running⟩
      · exact .inr stopped

theorem latch_of_notDue {t : State} (running : s.latch = none) (notDue : dueFault s = none) (stepped : step s = .next t) :
    t.latch = none := by
  obtain ⟨u, stepped', clear⟩ | ⟨-, stopped⟩ := step_of_notDue running notDue
  · cases stepped.symm.trans stepped'
    exact clear
  · cases stepped.symm.trans stopped

end

/-! ## The faults of a step (R110, R111) -/

/-- Settles O9: a step is due a fault or none, and what each does is `step_of_due` and `step_of_notDue`. -/
theorem faultsAreRaisedExactlyAsTabled : Obligations.FaultsAreRaisedExactlyAsTabled := by
  unfold Obligations.FaultsAreRaisedExactlyAsTabled
  refine ⟨fun s c running due => ⟨_, step_of_due running due, rfl⟩, fun s t => latch_of_notDue,
    fun s running notDue depth => ?_, rfl⟩
  obtain ⟨t, stepped, -⟩ | ⟨noEntry, -⟩ := step_of_notDue running notDue
  · exact ⟨t, stepped⟩
  · exact absurd depth (Nat.not_le.2 noEntry)

/-- Settles O10: a step with a next state started with the latch clear, and only one due a fault sets it. -/
theorem faultingStepChangesOnlyTheLatch : Obligations.FaultingStepChangesOnlyTheLatch := by
  unfold Obligations.FaultingStepChangesOnlyTheLatch
  intro s t stepped faulted
  obtain ⟨running, -⟩ := step_cases stepped
  refine ⟨running, ?_⟩
  cases due : dueFault s with
  | none => exact absurd (latch_of_notDue running due stepped) faulted
  | some c =>
    cases stepped.symm.trans (step_of_due running due)
    rfl

/-! ## The halt (R112) -/

section
variable {s : State} {c : FaultCause}

theorem step_of_halted (halted : s.latch = some c) : step s = .fault (.halted c) := by
  simp only [step, halted, haltedStep]

theorem act_engine_of_halted (halted : s.latch = some c) : act .engine s = .next s := by
  simp only [act, engineRequest, halted]

/-- A host event other than Reset neither reads nor writes the latch (R112). -/
theorem hostEvent_setLatch {e : HostEvent} {t : State} (notReset : e ≠ .reset) (happened : hostEvent e s = .next t)
    (l : Option FaultCause) : hostEvent e (s.setLatch l) = .next (t.setLatch l) := by
  cases e with
  | reset => exact absurd rfl notReset
  | loadProgram image =>
    simp only [hostEvent] at happened ⊢
    split at happened
    · next fits =>
      cases happened
      exact if_pos fits
    · cases happened
  | loadFont | timerTick | setKeys | ackDisplay =>
    cases happened
    rfl

/-- Setting the latch to what it holds changes nothing, so such an event leaves it (R112). -/
theorem hostEvent_latch {e : HostEvent} {t : State} (notReset : e ≠ .reset) (happened : hostEvent e s = .next t) :
    t.latch = s.latch := by
  have again : hostEvent e s = .next (t.setLatch s.latch) := hostEvent_setLatch notReset happened s.latch
  have same : t = t.setLatch s.latch := Host.Outcome.next.inj (happened.symm.trans again)
  rw [same, State.setLatch_latch]

end

/-- Settles O11: the latch stops the engine, and the host events but Reset commute with setting it. -/
theorem haltedUntilReset : Obligations.HaltedUntilReset := by
  unfold Obligations.HaltedUntilReset
  intro s c halted
  refine ⟨step_of_halted halted, act_engine_of_halted halted, fun e t notReset happened => ?_, fun e acts => ?_,
    ⟨_, rfl, rfl⟩⟩
  · exact (hostEvent_latch notReset happened).trans halted
  · have setBack : (s.setLatch none).setLatch (some c) = s := by rw [← halted]; rfl
    obtain ⟨notReset, t, happened⟩ : e ≠ .reset ∧ ∃ t, hostEvent e (s.setLatch none) = .next t := by
      obtain rfl | ⟨k, rfl⟩ | rfl := acts <;> exact ⟨nofun, _, rfl⟩
    exact ⟨t, happened, setBack ▸ hostEvent_setLatch notReset happened (some c)⟩

/-! ## TimerTick, SetKeys and AckDisplay (R120 to R122) -/

theorem toNat_countDown (v : Byte) : (countDown v).toNat = v.toNat - 1 := by
  unfold countDown
  split <;> bv_omega

/-- Settles O19: each timer is counted down, and no other element is written. -/
theorem timerTickCountsBothTimersDown : Obligations.TimerTickCountsBothTimersDown := by
  unfold Obligations.TimerTickCountsBothTimersDown
  intro s
  refine ⟨_, rfl, toNat_countDown s.delayTimer, toNat_countDown s.soundTimer, ?_⟩
  exact (changesOnly_setDelayTimer s (.inl rfl) _).trans (changesOnly_setSoundTimer _ (.inr rfl) _)

theorem changesOnly_setKeys {w : Elem → Prop} (s : State) (owned : ∀ i, w (.key i)) (k : KeyVector) :
    ChangesOnly w s (s.setKeys k) := by
  intro e kept
  cases e with
  | key i => exact absurd (owned i) kept
  | _ => rfl

/-- Settles O21: each of the two is one write. -/
theorem setKeysAndAckDisplayWriteOneElement : Obligations.SetKeysAndAckDisplayWriteOneElement := by
  unfold Obligations.SetKeysAndAckDisplayWriteOneElement
  exact ⟨fun s k => ⟨_, rfl, rfl, changesOnly_setKeys s (fun i => ⟨i, rfl⟩) k⟩,
    fun s => ⟨_, rfl, rfl, changesOnly_setDirty s (by rfl) false⟩⟩

end Sys2Proof.Machine
end

section
/-! PROOFS, family 70_reset_and_hazards.md: what LoadProgram writes (R132). -/

namespace Sys2Proof.Machine

/-- Byte `k` of a stored block is read at `k` above its base (R33). -/
theorem Memory.read_writeBlock_add (m : Memory) (base : Nat) {bs : List Byte} {k : Nat} (inBlock : k < bs.length) :
    (m.writeBlock base bs).read (base + k) = bs[k] := by
  have covered : base ≤ base + k ∧ base + k < base + bs.length := ⟨Nat.le_add_right .., Nat.add_lt_add_left inBlock _⟩
  simp only [Memory.read_writeBlock, dif_pos covered, Nat.add_sub_cancel_left]

/-- An image that fits is stored as one block, and that is the whole event (R132). -/
theorem hostEvent_loadProgram_of_fits {image : List Byte} (fits : image.length ≤ 3583) (s : State) :
    hostEvent (.loadProgram image) s = .next (s.setMem (s.mem.writeBlock 0x200 image)) :=
  if_pos fits

/-- Settles O23: the one block written is the image, and its last address is at most 0x200 + 3582. -/
theorem loadProgramFillsFromTheProgramBase : Obligations.LoadProgramFillsFromTheProgramBase := by
  unfold Obligations.LoadProgramFillsFromTheProgramBase
  intro s image fits
  refine ⟨_, hostEvent_loadProgram_of_fits fits s, fun k inImage => ⟨by omega, ?_⟩,
    changesOnly_writeBlock s fun k inImage => ⟨k, inImage, rfl⟩⟩
  rw [State.setMem_mem, Memory.read_writeBlock_add _ _ inImage]

end Sys2Proof.Machine
end

section
/-! PROOFS, family other: the decoder and the encoder are inverse to each other and the words of no row (R49 to R52); the
invariant of every run and what no run can leave (R13, R14, R61, R112); memory as data; the two loads and the ticks (R120,
R131 to R133); RND (R81); a sprite drawn twice (R93); the registers written, and what no instruction reads (R10 to R22). -/

namespace Sys2Proof

/-! ## Decoding an encoding (R49, R51) -/

theorem decodeWord_rnd (x : Reg) (kk : Byte) : decodeWord (formatXK 0xC#4 x kk) = .ok (.rnd x kk) :=
  decodeWord_of_fixedBits (Laws.FixedBits.rnd x kk)

theorem sysOperandOk_iff (nnn : BitVec 12) :
    sysOperandOk nnn = true ↔ nnn.toNat % 256 ≠ 0xE0 ∧ nnn.toNat % 256 ≠ 0xEE := by
  simp [sysOperandOk, ← BitVec.toNat_inj]

theorem decodeWord_encode {i : Instr} (wf : i.wellFormed = true) : decodeWord (encode i) = .ok i := by
  cases i with
  | sys nnn =>
    obtain ⟨notCls, notRet⟩ := (sysOperandOk_iff nnn).1 wf
    exact decodeWord_sys notCls notRet
  | cls => exact decodeWord_cls 0
  | ret => exact decodeWord_ret 0
  | jp nnn => exact decodeWord_jp nnn
  | call nnn => exact decodeWord_call nnn
  | seByte x kk => exact decodeWord_seByte x kk
  | sneByte x kk => exact decodeWord_sneByte x kk
  | seReg x y => exact decodeWord_seReg x y 0x0#4
  | ldByte x kk => exact decodeWord_ldByte x kk
  | addByte x kk => exact decodeWord_addByte x kk
  | ldReg x y => exact decodeWord_ldReg x y
  | orReg x y => exact decodeWord_orReg x y
  | andReg x y => exact decodeWord_andReg x y
  | xorReg x y => exact decodeWord_xorReg x y
  | addReg x y => exact decodeWord_addReg x y
  | subReg x y => exact decodeWord_subReg x y
  | shr x y => exact decodeWord_shr x y
  | subnReg x y => exact decodeWord_subnReg x y
  | shl x y => exact decodeWord_shl x y
  | sneReg x y => exact decodeWord_sneReg x y 0x0#4
  | ldI nnn => exact decodeWord_ldI nnn
  | jpV0 nnn => exact decodeWord_jpV0 nnn
  | rnd x kk => exact decodeWord_rnd x kk
  | drw x y n => exact decodeWord_drw x y n
  | skp x => exact decodeWord_skp x
  | sknp x => exact decodeWord_sknp x
  | ldVxDt x => exact decodeWord_ldVxDt x
  | ldVxK x => exact decodeWord_ldVxK x
  | ldDtVx x => exact decodeWord_ldDtVx x
  | ldStVx x => exact decodeWord_ldStVx x
  | addI x => exact decodeWord_addI x
  | ldF x => exact decodeWord_ldF x
  | ldB x => exact decodeWord_ldB x
  | ldMemVx x => exact decodeWord_ldMemVx x
  | ldVxMem x => exact decodeWord_ldVxMem x

/-- The bytes of a word are read back as the word, and the bytes after them are left (R34, R45). -/
theorem decodeBytes_bytesOfWord {raw : Word} {i : Instr} (decoded : decodeWord raw = .ok i) (rest : List Byte) :
    decodeBytes (bytesOfWord raw ++ rest) = .ok (i, rest) := by
  simp only [bytesOfWord, List.cons_append, List.nil_append, decodeBytes, wordOfBytes_bytesOfWord, decoded]

/-- Settles O1: the word of each instruction by the decoding lemma of its row, the bytes by the word. -/
theorem decodeOfEncodeIsTheInstruction : Obligations.DecodeOfEncodeIsTheInstruction := by
  unfold Obligations.DecodeOfEncodeIsTheInstruction
  exact fun i wf => ⟨decodeWord_encode wf, decodeBytes_bytesOfWord (decodeWord_encode wf)⟩

/-! ## Encoding what was decoded (R46, R50, R51) -/

theorem nibbleOf_fieldX (raw : Word) : nibbleOf (fieldX raw) = raw.extractLsb' 8 4 := rfl

theorem nibbleOf_fieldY (raw : Word) : nibbleOf (fieldY raw) = raw.extractLsb' 4 4 := rfl

section
variable {raw : Word} {f : BitVec 4}

theorem topNibble_of_fixed (fixed : raw &&& 0xF000#16 = formatA f 0) : topNibble raw = f := by
  simpa [and_topMask] using congrArg topNibble fixed

theorem formatA_fields (fixed : raw &&& 0xF000#16 = formatA f 0) : formatA f (fieldNNN raw) = raw := by
  obtain rfl := topNibble_of_fixed fixed
  refine BitVec.eq_of_getLsbD_eq fun i hi => ?_
  rw [formatA_getLsbD]
  interval_cases i <;> simp [topNibble, fieldNNN]

theorem formatXK_fields (fixed : raw &&& 0xF000#16 = formatA f 0) : formatXK f (fieldX raw) (fieldKK raw) = raw := by
  obtain rfl := topNibble_of_fixed fixed
  refine BitVec.eq_of_getLsbD_eq fun i hi => ?_
  rw [formatXK_getLsbD]
  interval_cases i <;> simp [topNibble, nibbleOf_fieldX, fieldKK]

theorem formatX_fields {sub : Byte} (fixed : raw &&& 0xF0FF#16 = formatX f 0 sub) : formatX f (fieldX raw) sub = raw := by
  obtain rfl : topNibble raw = f := by simpa [and_lowByteMask] using congrArg topNibble fixed
  obtain rfl : fieldKK raw = sub := by simpa [and_lowByteMask] using congrArg fieldKK fixed
  exact formatXK_fields (and_topMask raw)

theorem formatXYN_fields (fixed : raw &&& 0xF000#16 = formatA f 0) :
    formatXY f (fieldX raw) (fieldY raw) (nibbleOf (fieldN raw)) = raw := by
  obtain rfl := topNibble_of_fixed fixed
  refine BitVec.eq_of_getLsbD_eq fun i hi => ?_
  rw [formatXY_getLsbD]
  interval_cases i <;> simp [topNibble, nibbleOf_fieldX, nibbleOf_fieldY, nibbleOf_fieldN]

theorem formatXY_fields {l : BitVec 4} (fixed : raw &&& 0xF00F#16 = formatXY f 0 0 l) :
    formatXY f (fieldX raw) (fieldY raw) l = raw := by
  rw [and_lowNibbleMask] at fixed
  obtain rfl : topNibble raw = f := by simpa using congrArg topNibble fixed
  obtain rfl : nibbleOf (fieldN raw) = l := by
    have low := congrArg (fun w : Word => w.toNat % 16) fixed
    simp only [toNat_formatXY] at low
    bv_omega
  exact formatXYN_fields (and_topMask raw)

/-- The last nibble, which no field of rows 8 and 20 reads, is lost. -/
theorem formatXY_zero_fields (fixed : raw &&& 0xF000#16 = formatA f 0) :
    formatXY f (fieldX raw) (fieldY raw) 0x0#4 = raw &&& 0xFFF0#16 := by
  obtain rfl := topNibble_of_fixed fixed
  refine (masked_eq fun i hi => ?_).symm
  rw [formatXY_getLsbD]
  interval_cases i <;> simp [topNibble, nibbleOf_fieldX, nibbleOf_fieldY]

end

section
variable {raw : Word} {i : Instr}

theorem fixedBits_of_decodeWord (decoded : decodeWord raw = .ok i) :
    raw &&& i.opcodeRow.mask = i.opcodeRow.pattern ∧
      (i.opcodeRow.row = 1 → raw.toNat % 256 ≠ 0xE0 ∧ raw.toNat % 256 ≠ 0xEE) :=
  (rowIsSelectedByItsMaskAndMatch raw i).1 ⟨i, decoded, rfl⟩

theorem lookupKey_pattern_of_decodeWord (decoded : decodeWord raw = .ok i) (notSys : i.opcodeRow.row ≠ 1) :
    lookupKey raw i.opcodeRow.pattern = some i := by
  have key : dispatchKey raw = i.opcodeRow.pattern :=
    (rowOfKey_eq_iff_pattern _ notSys).1 ((exists_decodeWord_row_iff raw _).1 ⟨i, decoded, rfl⟩)
  rw [← key, ← decodeWord_eq_ok_iff, decoded]

theorem and_fullMask (raw : Word) : raw &&& 0xFFFF#16 = raw := BitVec.and_allOnes

/-- The word has the fixed bits of its instruction's row, and evaluating the row's entry of the table (`cases reads`) tells
which field each operand is. -/
theorem encode_of_decodeWord (decoded : decodeWord raw = .ok i) : encode i = raw &&& i.opcodeRow.care := by
  obtain ⟨fixed, -⟩ := fixedBits_of_decodeWord decoded
  have reads := lookupKey_pattern_of_decodeWord decoded
  cases i with
  | sys nnn =>
    obtain rfl := operand_of_lookupKey_eq_sys ((decodeWord_eq_ok_iff _ _).1 decoded)
    exact (formatA_fields fixed).trans (and_fullMask raw).symm
  | cls | ret => exact fixed.symm
  | jp | call | ldI | jpV0 =>
    cases reads nofun
    exact (formatA_fields fixed).trans (and_fullMask raw).symm
  | seByte | sneByte | ldByte | addByte | rnd =>
    cases reads nofun
    exact (formatXK_fields fixed).trans (and_fullMask raw).symm
  | seReg | sneReg =>
    cases reads nofun
    exact formatXY_zero_fields fixed
  | ldReg | orReg | andReg | xorReg | addReg | subReg | shr | subnReg | shl =>
    cases reads nofun
    exact (formatXY_fields fixed).trans (and_fullMask raw).symm
  | drw =>
    cases reads nofun
    exact (formatXYN_fields fixed).trans (and_fullMask raw).symm
  | skp | sknp | ldVxDt | ldVxK | ldDtVx | ldStVx | addI | ldF | ldB | ldMemVx | ldVxMem =>
    cases reads nofun
    exact (formatX_fields fixed).trans (and_fullMask raw).symm

end

theorem toNat_fieldNNN (raw : Word) : (fieldNNN raw).toNat = raw.toNat % 4096 := by
  simp [fieldNNN]

theorem wellFormed_of_decodeWord {raw : Word} {i : Instr} (decoded : decodeWord raw = .ok i) : i.wellFormed = true := by
  cases i with
  | sys nnn =>
    obtain ⟨-, lowByte⟩ := fixedBits_of_decodeWord decoded
    obtain ⟨notCls, notRet⟩ := lowByte rfl
    obtain rfl := operand_of_lookupKey_eq_sys ((decodeWord_eq_ok_iff _ _).1 decoded)
    refine (sysOperandOk_iff _).2 ?_
    rw [toNat_fieldNNN]
    omega
  | _ => rfl

/-- Settles O2: the fixed bits of the row are those of the word, and each field is read from where its format puts it. -/
theorem decodedWordIsItsEncodingButForIgnoredBits : Obligations.DecodedWordIsItsEncodingButForIgnoredBits := by
  unfold Obligations.DecodedWordIsItsEncodingButForIgnoredBits
  exact fun raw i decoded => ⟨wellFormed_of_decodeWord decoded, encode_of_decodeWord decoded⟩

/-! ## The words of no row (R52) -/

/-- The keys of no row: outside family 0, those that are no row's match. -/
theorem rowOfKey_eq_none_iff (key : Word) :
    rowOfKey key = none ↔ 0x1000 ≤ key.toNat ∧
      key.toNat ∉ [0x1000, 0x2000, 0x3000, 0x4000, 0x5000, 0x6000, 0x7000, 0x8000, 0x8001, 0x8002, 0x8003, 0x8004, 0x8005,
        0x8006, 0x8007, 0x800E, 0x9000, 0xA000, 0xB000, 0xC000, 0xD000, 0xE09E, 0xE0A1, 0xF007, 0xF00A, 0xF015, 0xF018,
        0xF01E, 0xF029, 0xF033, 0xF055, 0xF065] := by
  unfold rowOfKey lookupKey
  split
  case h_35 =>
    have family : key &&& 0xF000#16 = 0x0000#16 ↔ key.toNat < 0x1000 := by
      rw [and_topMask, ← BitVec.toNat_inj, toNat_formatA, toNat_topNibble]
      simp
    split
    · next inFamily => simp [family.1 inFamily]
    · next notInFamily =>
      rw [family] at notInFamily
      simp_all [← BitVec.toNat_inj]
  all_goals decide

/-- Settles O5: a word has no row when its key has none, and the key in numbers is its family's. -/
theorem unmatchedWordsAreTheListed : Obligations.UnmatchedWordsAreTheListed := by
  unfold Obligations.UnmatchedWordsAreTheListed
  intro raw
  rw [decodeWord_eq_unmatched_iff, rowOfKey_eq_none_iff]
  by_cases h0 : raw.toNat / 4096 = 0x0
  · have low : ¬ 0x1000 ≤ raw.toNat % 256 := by omega
    rw [toNat_dispatchKey_of_low (.inl h0), h0]
    simp [low]
  by_cases h8 : raw.toNat / 4096 = 0x8
  · rw [toNat_dispatchKey_of_arith h8, h8, Nat.add_comm]
    simp
    omega
  by_cases hE : raw.toNat / 4096 = 0xE
  · rw [toNat_dispatchKey_of_low (.inr (.inl hE)), hE, Nat.add_comm]
    simp
    omega
  by_cases hF : raw.toNat / 4096 = 0xF
  · rw [toNat_dispatchKey_of_low (.inr (.inr hF)), hF, Nat.add_comm]
    simp
  · rw [toNat_dispatchKey_of_plain h0 h8 hE hF]
    have family : raw.toNat / 4096 < 16 := by omega
    generalize raw.toNat / 4096 = f at h0 h8 hE hF family ⊢
    interval_cases f <;> simp at h0 h8 hE hF ⊢

/-- Settles O6: each word is evaluated by the decoder. -/
theorem sampleWordsDecodeAsTheTableSays : Obligations.SampleWordsDecodeAsTheTableSays := by
  unfold Obligations.SampleWordsDecodeAsTheTableSays
  decide

end Sys2Proof

namespace Sys2Proof.Machine

/-! ## The engine step (R57) -/

/-- Settles O7: the fetch reads the two bytes at `PC`, and the handler is given the advanced state. -/
theorem stepRunsTheDecodedInstruction : Obligations.StepRunsTheDecodedInstruction := by
  unfold Obligations.StepRunsTheDecodedInstruction
  intro s i running inRange decoded
  exact step_of_decoded running ((fetchWord_eq_some s _).2 ⟨inRange, rfl⟩) decoded

/-- Settles O52: the jump overwrites the fetch's advance with the address it was fetched from. -/
theorem jumpToSelfIsAFixedPoint : Obligations.JumpToSelfIsAFixedPoint := by
  unfold Obligations.JumpToSelfIsAFixedPoint
  intro s nnn running inRange self word
  have target : zextAddr nnn = s.pc := BitVec.eq_of_toNat_eq ((zextAddr_toNat nnn).trans self)
  calc step s
    _ = exec (.jp nnn) s.advance := stepRunsTheDecodedInstruction s _ running inRange (word ▸ decodeWord_jp nnn)
    _ = .next (s.advance.setPc (zextAddr nnn)) := rfl
    _ = .next s := by rw [target]; rfl

/-- Settles O28: above 16 there is no entry to pop. -/
theorem returnAboveTheStackStops : Obligations.ReturnAboveTheStackStops := by
  unfold Obligations.ReturnAboveTheStackStops
  exact fun s => exec_ret_of_noEntry

/-! ## What an instruction that can raise or wait has done where no fault was due (R61, R63, R88 to R98) -/

section
variable {x y : Reg} {n : Fin 16} {nnn : BitVec 12} {s t : State}

/-- A RET that completes had an entry to pop: at an `SP` above 16 there is no next state (R15). -/
theorem exec_ret_cases (notDue : dueOf .ret s = none) (ran : exec .ret s = .next t) :
    ∃ i : Fin 16, s.sp.toNat = i.val + 1 ∧ t = (s.setSp (s.sp - 1#8)).setPc s.stack[i] := by
  have notEmpty : s.sp.toNat ≠ 0 := by simpa [dueOf] using notDue
  have entry : ¬ s.sp.toNat > 16 := fun noEntry => nomatch ran.symm.trans (exec_ret_of_noEntry noEntry)
  obtain ⟨i, depth⟩ : ∃ i : Fin 16, s.sp.toNat = i.val + 1 := ⟨⟨s.sp.toNat - 1, by omega⟩, by simp only; omega⟩
  exact ⟨i, depth, Host.Outcome.next.inj (ran.symm.trans (exec_ret_of_depth depth))⟩

theorem exec_call_cases (notDue : dueOf (.call nnn) s = none) (ran : exec (.call nnn) s = .next t) :
    ∃ i : Fin 16, s.sp.toNat = i.val ∧
      t = ((s.setStackEntry i.val s.pc).setSp (s.sp + 1#8)).setPc (zextAddr nnn) := by
  obtain ⟨i, depth⟩ : ∃ i : Fin 16, s.sp.toNat = i.val := ⟨⟨s.sp.toNat, by simpa [dueOf] using notDue⟩, rfl⟩
  exact ⟨i, depth, Host.Outcome.next.inj (ran.symm.trans (exec_call_of_depth depth))⟩

/-- The row of SKP in the table of R110, which SKNP shares. -/
theorem key_of_skp_notDue (notDue : dueOf (.skp x) s = none) : ∃ key : Fin 16, (s.reg x).toNat = key.val :=
  ⟨⟨(s.reg x).toNat, by simpa [dueOf, Nat.lt_succ_iff] using notDue⟩, rfl⟩

theorem exec_skp_cases (notDue : dueOf (.skp x) s = none) (ran : exec (.skp x) s = .next t) :
    ∃ key : Fin 16, (s.reg x).toNat = key.val ∧ t = s.skipIf s.keys[key] := by
  obtain ⟨key, named⟩ := key_of_skp_notDue notDue
  exact ⟨key, named, Host.Outcome.next.inj (ran.symm.trans (exec_skp_of_named named))⟩

theorem exec_sknp_cases (notDue : dueOf (.sknp x) s = none) (ran : exec (.sknp x) s = .next t) :
    ∃ key : Fin 16, (s.reg x).toNat = key.val ∧ t = s.skipIf !s.keys[key] := by
  obtain ⟨key, named⟩ := key_of_skp_notDue notDue
  exact ⟨key, named, Host.Outcome.next.inj (ran.symm.trans (exec_sknp_of_named named))⟩

theorem exec_ldB_cases (notDue : dueOf (.ldB x) s = none) (ran : exec (.ldB x) s = .next t) :
    s.index.toNat + 2 ≤ 0xFFF ∧ t = s.setMem (s.mem.writeBlock (effectiveAddr s 0) (bcdDigits (s.reg x))) := by
  have inRange : s.index.toNat + 2 ≤ 0xFFF := by simpa [dueOf] using notDue
  exact ⟨inRange, Host.Outcome.next.inj (ran.symm.trans (exec_ldB_of_valid inRange))⟩

theorem exec_ldMemVx_cases (notDue : dueOf (.ldMemVx x) s = none) (ran : exec (.ldMemVx x) s = .next t) :
    s.index.toNat + x.val ≤ 0xFFF ∧
      t = s.setMem (s.mem.writeBlock (effectiveAddr s 0) ((regsUpTo x).map s.reg)) := by
  have inRange : s.index.toNat + x.val ≤ 0xFFF := by simpa [dueOf] using notDue
  exact ⟨inRange, Host.Outcome.next.inj (ran.symm.trans (exec_ldMemVx_of_valid inRange))⟩

theorem exec_ldVxMem_cases (notDue : dueOf (.ldVxMem x) s = none) (ran : exec (.ldVxMem x) s = .next t) :
    s.index.toNat + x.val ≤ 0xFFF ∧ t = loadRegs (regsUpTo x) s := by
  have inRange : s.index.toNat + x.val ≤ 0xFFF := by simpa [dueOf] using notDue
  exact ⟨inRange, Host.Outcome.next.inj (ran.symm.trans (exec_ldVxMem_of_valid inRange))⟩

theorem exec_drw_cases (notDue : dueOf (.drw x y n) s = none) (ran : exec (.drw x y n) s = .next t) :
    (n.val = 0 ∨ s.index.toNat + (n.val - 1) ≤ 0xFFF) ∧ t = drawnState x y n s := by
  have inRange : ¬ (n.val > 0 ∧ s.index.toNat + n.val - 1 > 0xFFF) := by simpa [dueOf] using notDue
  have valid : n.val = 0 ∨ s.index.toNat + (n.val - 1) ≤ 0xFFF := by omega
  exact ⟨valid, Host.Outcome.next.inj (ran.symm.trans (exec_drw_of_valid valid))⟩

theorem exec_ldVxK_cases (ran : exec (.ldVxK x) s = .next t) :
    (∃ key : Fin 16, s.keys[key] = true ∧ (∀ j : Fin 16, j < key → s.keys[j] = false) ∧
        t = s.setReg x (BitVec.ofNat 8 key.val)) ∨
      ((∀ i : Fin 16, s.keys[i] = false) ∧ t = s.rewind) := by
  cases found : firstPressed s with
  | some key =>
    obtain ⟨pressed, least⟩ := (firstPressed_eq_some s key).1 found
    exact .inl ⟨key, pressed, least, Host.Outcome.next.inj (ran.symm.trans (exec_ldVxK_of_leastPressed pressed least))⟩
  | none =>
    have released := (firstPressed_eq_none s).1 found
    exact .inr ⟨released, Host.Outcome.next.inj (ran.symm.trans (exec_ldVxK_of_noKeyPressed released))⟩

end

/-! ## The run invariant under a write (R13, R14, R21, R61) -/

section
variable {s t : State} (inv : RunInvariant s)
include inv

/-- The invariant speaks of memory, `SP`, the stack and `PC` alone. -/
theorem RunInvariant.of_same (mem : t.mem = s.mem) (sp : t.sp = s.sp) (stack : t.stack = s.stack) (pc : t.pc = s.pc) :
    RunInvariant t where
  memory := mem ▸ inv.memory
  depth := sp ▸ inv.depth
  returns := by
    rw [sp, stack]
    exact inv.returns
  counter := pc ▸ inv.counter

theorem RunInvariant.setPc {v : Word} (reached : v.toNat ≤ 0x10FE) : RunInvariant (s.setPc v) :=
  ⟨inv.memory, inv.depth, inv.returns, reached⟩

theorem RunInvariant.setMem {m : Memory} (canonical : m.wf = true) : RunInvariant (s.setMem m) :=
  ⟨canonical, inv.depth, inv.returns, inv.counter⟩

theorem RunInvariant.writeBlock {base : Nat} {bs : List Byte} (fits : base + bs.length ≤ 4096) :
    RunInvariant (s.setMem (s.mem.writeBlock base bs)) :=
  inv.setMem (Memory.wf_writeBlock inv.memory fits)

theorem RunInvariant.skipIf (fetched : s.pc.toNat ≤ 0x1000) (c : Bool) : RunInvariant (s.skipIf c) := by
  cases c
  · exact inv
  · exact inv.setPc (by bv_omega)

/-- The entry popped is one below the depth, so a return address (R61). -/
theorem RunInvariant.pop {i : Fin 16} (depth : s.sp.toNat = i.val + 1) :
    RunInvariant ((s.setSp (s.sp - 1#8)).setPc s.stack[i]) := by
  have shallower : (s.sp - 1#8).toNat = i.val := by bv_omega
  refine ⟨inv.memory, shallower.le.trans (by omega), fun j held => inv.returns j ?_,
    (inv.returns i (by omega)).trans (by omega)⟩
  have : j.val < i.val := held.trans_eq shallower
  omega

/-- The entry pushed is the address after the instruction under way (R63). -/
theorem RunInvariant.push {i : Fin 16} {target : Word} (depth : s.sp.toNat = i.val) (fetched : s.pc.toNat ≤ 0x1000)
    (reached : target.toNat ≤ 0x10FE) :
    RunInvariant (((s.setStackEntry i.val s.pc).setSp (s.sp + 1#8)).setPc target) := by
  have deeper : (s.sp + 1#8).toNat = i.val + 1 := by bv_omega
  refine ⟨inv.memory, deeper.le.trans (by omega), fun j held => ?_, reached⟩
  have : j.val < i.val + 1 := held.trans_eq deeper
  rw [State.setPc_stack, State.setSp_stack, State.setStackEntry_get]
  split
  · exact fetched
  · exact inv.returns j (by omega)

end

/-! ## The run invariant under an engine step -/

section
variable {i : Instr} {s t : State}

/-- An instruction that has raised nothing and owns neither `PC`, the stack nor memory leaves all that the invariant speaks
of. -/
theorem RunInvariant.of_exec_other (inv : RunInvariant s) (ran : exec i s = .next t) (clear : t.latch = none)
    (noPc : ¬ writesPc i) (noStore : ¬ ((∃ x, i = .ldB x) ∨ ∃ x, i = .ldMemVx x)) : RunInvariant t := by
  cases writes_of_exec ran with
  | counter v owner => exact absurd owner noPc
  | pop | push => exact absurd trivial noPc
  | memory m owner => exact absurd owner noStore
  | fault => cases clear
  | _ => exact inv.of_same rfl rfl rfl rfl

/-- An instruction due no fault keeps the invariant in the state a fetch leaves, whose `PC` is 2 to 0x1000 (R57). -/
theorem RunInvariant.of_exec (inv : RunInvariant s) (fetched : 2 ≤ s.pc.toNat ∧ s.pc.toNat ≤ 0x1000)
    (notDue : dueOf i s = none) (ran : exec i s = .next t) (clear : t.latch = none) : RunInvariant t := by
  obtain ⟨low, high⟩ := fetched
  cases i with
  | ret =>
    obtain ⟨i, depth, rfl⟩ := exec_ret_cases notDue ran
    exact inv.pop depth
  | call nnn =>
    obtain ⟨i, depth, rfl⟩ := exec_call_cases notDue ran
    exact inv.push depth high (by rw [zextAddr_toNat]; omega)
  | jp nnn =>
    cases ran
    exact inv.setPc (by rw [zextAddr_toNat]; omega)
  | jpV0 nnn =>
    cases ran
    exact inv.setPc (by rw [toNat_zextAddr_add_zextByte]; omega)
  | seByte | sneByte | seReg | sneReg =>
    cases ran
    exact inv.skipIf high _
  | skp x =>
    obtain ⟨key, named, rfl⟩ := exec_skp_cases notDue ran
    exact inv.skipIf high _
  | sknp x =>
    obtain ⟨key, named, rfl⟩ := exec_sknp_cases notDue ran
    exact inv.skipIf high _
  | ldVxK x =>
    obtain ⟨key, -, -, rfl⟩ | ⟨-, rfl⟩ := exec_ldVxK_cases ran
    · exact inv.of_same rfl rfl rfl rfl
    · exact inv.setPc (by bv_omega)
  | ldB x =>
    obtain ⟨inRange, rfl⟩ := exec_ldB_cases notDue ran
    exact inv.writeBlock (by rw [length_bcdDigits, effectiveAddr]; omega)
  | ldMemVx x =>
    obtain ⟨inRange, rfl⟩ := exec_ldMemVx_cases notDue ran
    exact inv.writeBlock (by rw [List.length_map, length_regsUpTo, effectiveAddr]; omega)
  | _ => exact inv.of_exec_other ran clear nofun nofun

theorem RunInvariant.advance (inv : RunInvariant s) (inRange : s.pc.toNat ≤ 0xFFE) : RunInvariant s.advance :=
  inv.setPc (by bv_omega)

theorem RunInvariant.of_step (inv : RunInvariant s) (stepped : step s = .next t) : RunInvariant t := by
  obtain ⟨running, how⟩ := step_cases stepped
  cases due : dueFault s with
  | some c =>
    cases stepped.symm.trans (step_of_due running due)
    exact inv.of_same rfl rfl rfl rfl
  | none =>
    have clear := latch_of_notDue running due stepped
    obtain ⟨noFetch, -⟩ | ⟨raw, i, fetched, decoded, ran⟩ | ⟨raw, r, fetched, -, rfl⟩ := how
    · cases (dueFault_of_noFetch noFetch).symm.trans due
    · obtain ⟨inRange, -⟩ := (fetchWord_eq_some s raw).1 fetched
      have notDue : dueOf i s.advance = none := by rw [dueOf_advance, ← dueFault_of_decoded fetched decoded, due]
      have bounds : 2 ≤ s.advance.pc.toNat ∧ s.advance.pc.toNat ≤ 0x1000 := by
        rw [State.advance_pc]
        bv_omega
      exact (inv.advance inRange).of_exec bounds notDue ran clear
    · exact inv.advance ((fetchWord_eq_some s raw).1 fetched).1

end

/-- Settles O13: a fault changes the latch alone, and an instruction due none keeps each bound. -/
theorem stepKeepsRunInvariant : Obligations.StepKeepsRunInvariant := by
  unfold Obligations.StepKeepsRunInvariant
  exact fun s t => RunInvariant.of_step

/-! ## The run invariant at reset, under the host, and in every run (R5, R130 to R132) -/

theorem runInvariant_reset : RunInvariant State.reset where
  memory := rfl
  depth := Nat.zero_le 16
  returns := nofun
  counter := by decide

/-- Settles O14: the memory is empty, the stack too, and `PC` is 0x200. -/
theorem resetMeetsRunInvariant : Obligations.ResetMeetsRunInvariant := by
  unfold Obligations.ResetMeetsRunInvariant
  exact runInvariant_reset

theorem RunInvariant.of_hostEvent {e : HostEvent} {s t : State} (inv : RunInvariant s) (happened : hostEvent e s = .next t) :
    RunInvariant t := by
  cases e with
  | reset =>
    cases happened
    exact runInvariant_reset.of_same rfl rfl rfl rfl
  | loadFont font =>
    cases happened
    exact inv.writeBlock (by simp)
  | loadProgram image =>
    simp only [hostEvent] at happened
    split at happened
    · next fits =>
      cases happened
      exact inv.writeBlock (by simp at fits ⊢; omega)
    · cases happened
  | timerTick | setKeys | ackDisplay =>
    cases happened
    exact inv.of_same rfl rfl rfl rfl

/-- Settles O15: the two loads store in range, and no other event but Reset writes what the invariant speaks of. -/
theorem hostEventsKeepRunInvariant : Obligations.HostEventsKeepRunInvariant := by
  unfold Obligations.HostEventsKeepRunInvariant
  exact fun e s t => RunInvariant.of_hostEvent

theorem RunInvariant.of_act {a : Action} {s t : State} (inv : RunInvariant s) (happened : act a s = .next t) :
    RunInvariant t := by
  cases a with
  | host e => exact inv.of_hostEvent happened
  | engine =>
    simp only [act, engineRequest] at happened
    split at happened
    · cases happened
      exact inv
    · exact inv.of_step happened

theorem Reachable.runInvariant {s : State} (reached : Reachable s) : RunInvariant s := by
  induction reached with
  | reset => exact runInvariant_reset
  | act _ happened inv => exact inv.of_act happened

theorem exists_step_of_depth {s : State} (running : s.latch = none) (depth : s.sp.toNat ≤ 16) :
    ∃ t, step s = .next t := by
  cases due : dueFault s with
  | some c => exact ⟨_, step_of_due running due⟩
  | none =>
    obtain ⟨-, -, progress, -⟩ := faultsAreRaisedExactlyAsTabled
    exact progress s running due depth

/-- Settles O16: the invariant is inductive, and its bound on `SP` shuts out the one stop of a step. -/
theorem reachableStatesMeetInvariantAndStep : Obligations.ReachableStatesMeetInvariantAndStep := by
  unfold Obligations.ReachableStatesMeetInvariantAndStep
  exact fun s reached => ⟨reached.runInvariant, fun running => exists_step_of_depth running reached.runInvariant.depth⟩

/-! ## Memories as data (R21, R30) -/

/-- The cells of a canonical memory are the addresses that do not read as an unlisted one does, each with its byte. -/
theorem Memory.mem_iff_of_wf {m : Memory} (wf : m.wf = true) (c : Host.Cell) :
    c ∈ m ↔ m.read c.1 = c.2 ∧ c.2 ≠ Config.unlistedByte := by
  obtain ⟨a, v⟩ := c
  induction m with
  | nil => exact iff_of_false List.not_mem_nil fun ⟨unlisted, listed⟩ => listed unlisted.symm
  | cons d m ih =>
    obtain ⟨k, w⟩ := d
    obtain ⟨-, listed, above, wfRest⟩ := (Memory.wf_cons k w m).1 wf
    rw [List.mem_cons, ih wfRest, Memory.read]
    by_cases here : a = k
    · subst here
      have absent : ¬ (Memory.read m a = v ∧ v ≠ Config.unlistedByte) := fun later =>
        lt_irrefl a (above _ ((ih wfRest).2 later))
      rw [if_pos rfl, or_iff_left absent]
      constructor
      · rintro ⟨⟩
        exact ⟨rfl, listed⟩
      · rintro ⟨rfl, -⟩
        rfl
    · simp [here]

theorem Memory.pairwise_of_wf {m : Memory} (wf : m.wf = true) : m.Pairwise (·.1 < ·.1) := by
  induction m with
  | nil => exact .nil
  | cons d m ih =>
    obtain ⟨-, -, above, wf⟩ := (Memory.wf_cons d.1 d.2 m).1 wf
    exact .cons above (ih wf)

/-- Settles O17: the reads tell the cells, and the rising addresses tell their order. -/
theorem canonicalMemoriesThatReadAlikeAreEqual : Obligations.CanonicalMemoriesThatReadAlikeAreEqual := by
  unfold Obligations.CanonicalMemoriesThatReadAlikeAreEqual
  intro m m' wf wf' alike
  have sameCells (c : Host.Cell) : c ∈ m ↔ c ∈ m' := by
    rw [Memory.mem_iff_of_wf wf, Memory.mem_iff_of_wf wf', alike]
  have irrefl : Std.Irrefl (fun c d : Host.Cell => c.1 < d.1) := ⟨fun c => lt_irrefl c.1⟩
  have antisymm : Std.Antisymm (fun c d : Host.Cell => c.1 < d.1) := ⟨fun c d h h' => absurd h' h.asymm⟩
  exact (Memory.pairwise_of_wf wf).eq_of_mem_iff (Memory.pairwise_of_wf wf') sameCells

/-! ## Runs from a faulted state (R112, R138) -/

theorem latch_of_act_of_faulted {a : Action} {s t : State} (faulted : s.latch ≠ none) (notReset : a ≠ .host .reset)
    (happened : act a s = .next t) : t.latch = s.latch := by
  cases a with
  | host e => exact hostEvent_latch (fun reset => notReset (reset ▸ rfl)) happened
  | engine =>
    obtain ⟨c, halted⟩ := Option.ne_none_iff_exists'.1 faulted
    cases happened.symm.trans (act_engine_of_halted halted)
    rfl

/-- Inversion of a run that begins with an action. -/
theorem runActions_cons_cases {a : Action} {as : List Action} {s t : State} (ran : runActions (a :: as) s = .next t) :
    ∃ u, act a s = .next u ∧ runActions as u = .next t := by
  unfold runActions at ran
  split at ran
  · next u happened => exact ⟨u, happened, ran⟩
  · cases ran
  · cases ran

theorem latch_of_runActions_of_faulted {as : List Action} {s t : State} (faulted : s.latch ≠ none)
    (noReset : Action.host .reset ∉ as) (ran : runActions as s = .next t) : t.latch = s.latch := by
  induction as generalizing s with
  | nil =>
    cases ran
    rfl
  | cons a as ih =>
    obtain ⟨notHere, notLater⟩ := List.ne_and_not_mem_of_not_mem_cons noReset
    obtain ⟨u, happened, ran⟩ := runActions_cons_cases ran
    have kept : u.latch = s.latch := latch_of_act_of_faulted faulted (Ne.symm notHere) happened
    exact (ih (kept ▸ faulted) notLater ran).trans kept

/-- Settles O12: no action but Reset writes a latch that is set, by induction on the actions. -/
theorem noSafeRunLeavesAFaultWithoutReset : Obligations.NoSafeRunLeavesAFaultWithoutReset := by
  unfold Obligations.NoSafeRunLeavesAFaultWithoutReset
  intro as s faulted noReset
  refine ⟨fun t => latch_of_runActions_of_faulted faulted noReset, ?_⟩
  rintro ⟨t, ran, clear⟩
  exact faulted ((latch_of_runActions_of_faulted faulted noReset ran).symm.trans clear)

/-! ## Ticks, the font and the program (R120, R131 to R133) -/

theorem runActions_host_cons {e : HostEvent} {s t : State} (happened : hostEvent e s = .next t) (as : List Action) :
    runActions (.host e :: as) s = runActions as t := by
  simp only [runActions, act, happened]

/-- Settles O20: by induction on the ticks, one tick by `timerTickCountsBothTimersDown`. -/
theorem ticksCountDownToZero : Obligations.TicksCountDownToZero := by
  unfold Obligations.TicksCountDownToZero
  intro n
  induction n with
  | zero => exact fun s => ⟨s, rfl, rfl, rfl, .refl _ s⟩
  | succ n ih =>
    intro s
    obtain ⟨t, ticked, delay, sound, frame⟩ := timerTickCountsBothTimersDown s
    obtain ⟨u, ran, delays, sounds, frames⟩ := ih t
    exact ⟨u, (runActions_host_cons ticked _).trans ran, by omega, by omega, frame.trans frames⟩

theorem hostEvent_loadFont (font : Vector Byte 80) (s : State) :
    hostEvent (.loadFont font) s = .next (s.setMem (s.mem.writeBlock 0x050 font.toList)) := rfl

/-- Settles O22: the one block written is the font. -/
theorem loadFontFillsTheFontArea : Obligations.LoadFontFillsTheFontArea := by
  unfold Obligations.LoadFontFillsTheFontArea
  intro s font
  refine ⟨_, hostEvent_loadFont font s, fun k => ?_, changesOnly_writeBlock s fun k inFont => ?_⟩
  · rw [State.setMem_mem, Memory.read_writeBlock_add _ _ (by simp)]
    simp
  · exact ⟨⟨k, by simpa using inFont⟩, rfl⟩

/-- Settles O24: the image is longer than the largest one the loader takes. -/
theorem oversizedImageIsRefused : Obligations.OversizedImageIsRefused := by
  unfold Obligations.OversizedImageIsRefused
  exact fun s image oversized => if_neg (Nat.not_le.2 oversized)

/-- Blocks that end where or before the other begins may be stored in either order (R33, R35). -/
theorem Memory.read_writeBlock_comm (m : Memory) {a b : Nat} {bs cs : List Byte} (apart : a + bs.length ≤ b) (p : Nat) :
    ((m.writeBlock a bs).writeBlock b cs).read p = ((m.writeBlock b cs).writeBlock a bs).read p := by
  simp only [Memory.read_writeBlock]
  split_ifs
  · omega
  all_goals rfl

theorem changesOnly_setMem_of_read {w : Elem → Prop} (s : State) {m m' : Memory} (alike : ∀ a, m.read a = m'.read a) :
    ChangesOnly w (s.setMem m) (s.setMem m') := by
  intro e _
  cases e with
  | mem a => exact (alike a).symm
  | _ => rfl

/-- Settles O25: the font ends at 0x09F and the program begins at 0x200. -/
theorem fontAndProgramLoadInEitherOrder : Obligations.FontAndProgramLoadInEitherOrder := by
  unfold Obligations.FontAndProgramLoadInEitherOrder
  intro s font image fits
  have loadProgram := hostEvent_loadProgram_of_fits fits
  refine ⟨_, _, (runActions_host_cons (hostEvent_loadFont font s) _).trans (runActions_host_cons (loadProgram _) []),
    (runActions_host_cons (loadProgram s) _).trans (runActions_host_cons (hostEvent_loadFont font _) []), ?_⟩
  exact changesOnly_setMem_of_read s (Memory.read_writeBlock_comm s.mem (by simp))

/-! ## RND (R81) -/

theorem changesOnly_setDraws {w : Elem → Prop} (s : State) (owned : w .draws) (n : Nat) :
    ChangesOnly w s (s.setDraws n) := by
  intro e kept
  cases e with
  | draws => exact absurd owned kept
  | _ => rfl

/-- Settles O37: the register is the draw masked, so no bit outside the mask is set. -/
theorem randomAndMasksTheDraw : Obligations.RandomAndMasksTheDraw := by
  unfold Obligations.RandomAndMasksTheDraw
  intro x kk s
  refine ⟨decodeWord_rnd x kk, ⟨_, rfl, fun i => ?_, rfl, ?_⟩, fun r => ?_⟩
  · rw [State.setDraws_reg, randomAnd, State.setReg_reg_same, BitVec.getLsbD_and]
  · exact (changesOnly_setReg s (.inl rfl) _).trans (changesOnly_setDraws _ (.inr rfl) _)
  · rw [randomAnd, State.setReg_reg_same, BitVec.and_assoc, BitVec.and_not_self]
    exact BitVec.and_zero

/-! ## A sprite drawn twice (R93) -/

section
variable {x y : Reg} (n : Fin 16) (s : State)

theorem drawnState_reg_other {r : Reg} (notFlag : r ≠ 15) : (drawnState x y n s).reg r = s.reg r :=
  s.setReg_reg_other _ notFlag

/-- Where neither coordinate is VF, a draw leaves all that the sprite of a second one is read from. -/
theorem drawCells_drawnState (hx : x ≠ 15) (hy : y ≠ 15) : drawCells x y n (drawnState x y n s) = drawCells x y n s := by
  rw [drawCells, drawnState_reg_other n s hx, drawnState_reg_other n s hy]
  rfl

theorem drawnState_drawnState_video (hx : x ≠ 15) (hy : y ≠ 15) :
    (drawnState x y n (drawnState x y n s)).video = s.video := by
  refine Vector.ext fun i hi => ?_
  have twice : (drawnState x y n (drawnState x y n s)).video[(⟨i, hi⟩ : CellIdx)] = s.video[(⟨i, hi⟩ : CellIdx)] := by
    rw [drawnState_video_getElem, drawCells_drawnState n s hx hy, drawnState_video_getElem]
    split <;> simp
  exact twice

theorem spriteCovers_drawnState_iff (hx : x ≠ 15) (hy : y ≠ 15) (px py : Nat) :
    SpriteCovers (drawnState x y n s) x y n px py ↔ SpriteCovers s x y n px py := by
  rw [SpriteCovers, drawnState_reg_other n s hx, drawnState_reg_other n s hy]
  rfl

end

/-- Settles O45: the second draw toggles the same cells, and its collision is told of the state the first left. -/
theorem drawingTwiceRestoresTheFramebuffer : Obligations.DrawingTwiceRestoresTheFramebuffer := by
  unfold Obligations.DrawingTwiceRestoresTheFramebuffer
  intro x y n s hx hy valid
  refine ⟨_, _, exec_drw_of_valid valid, exec_drw_of_valid valid, drawnState_drawnState_video n s hx hy, ?_⟩
  simp only [drawnState_reg_vf_eq_one_iff, spriteCovers_drawnState_iff n s hx hy]

/-! ## Which registers an instruction writes (R10, R11) -/

section
variable {i : Instr} {s t : State} {r : Reg}

theorem writeFlagAndResult_reg_other {x : Reg} (flag : State → Bool) (result : State → Byte) (notResult : r ≠ x)
    (notFlag : r ≠ 15) : (writeFlagAndResult x flag result s).reg r = s.reg r := by
  rw [writeFlagAndResult_reg, if_neg notResult, if_neg notFlag]

theorem loadRegs_regsUpTo_reg_other {x : Reg} (notLoaded : ¬ r ≤ x) : (loadRegs (regsUpTo x) s).reg r = s.reg r :=
  (loadRegs_reg _ s r).trans (if_neg (mt (mem_regsUpTo x r).1 notLoaded))

theorem reg_of_exec_of_due {c : FaultCause} (due : dueOf i s = some c) (ran : exec i s = .next t) : t.reg r = s.reg r := by
  cases (exec_of_due due).symm.trans ran
  rfl

theorem reg_of_exec_of_notDue (notDue : dueOf i s = none) (ran : exec i s = .next t) (notNamed : ¬ namesDestination i r)
    (notFlag : writesFlag i → r ≠ 15) : t.reg r = s.reg r := by
  cases i with
  | ldByte | addByte | ldReg | orReg | andReg | xorReg | ldVxDt | rnd =>
    cases ran
    exact s.setReg_reg_other _ notNamed
  | addReg | subReg | shr | subnReg | shl =>
    cases ran
    exact writeFlagAndResult_reg_other _ _ notNamed (notFlag trivial)
  | drw =>
    obtain ⟨-, rfl⟩ := exec_drw_cases notDue ran
    exact drawnState_reg_other _ s (notFlag trivial)
  | ldVxK x =>
    obtain ⟨key, -, -, rfl⟩ | ⟨-, rfl⟩ := exec_ldVxK_cases ran
    · exact s.setReg_reg_other _ notNamed
    · rfl
  | ldVxMem x =>
    obtain ⟨-, rfl⟩ := exec_ldVxMem_cases notDue ran
    exact loadRegs_regsUpTo_reg_other notNamed
  | ldB x =>
    obtain ⟨-, rfl⟩ := exec_ldB_cases notDue ran
    rfl
  | ldMemVx x =>
    obtain ⟨-, rfl⟩ := exec_ldMemVx_cases notDue ran
    rfl
  | ret =>
    obtain ⟨i, depth, rfl⟩ := exec_ret_cases notDue ran
    rfl
  | call =>
    obtain ⟨i, depth, rfl⟩ := exec_call_cases notDue ran
    rfl
  | skp x =>
    obtain ⟨key, named, rfl⟩ := exec_skp_cases notDue ran
    exact State.skipIf_reg ..
  | sknp x =>
    obtain ⟨key, named, rfl⟩ := exec_sknp_cases notDue ran
    exact State.skipIf_reg ..
  | seByte | sneByte | seReg | sneReg =>
    cases ran
    exact State.skipIf_reg ..
  | sys | cls | jp | ldI | jpV0 | ldDtVx | ldStVx | addI | ldF =>
    cases ran
    rfl

theorem reg_of_exec_of_not_named (ran : exec i s = .next t) (notNamed : ¬ namesDestination i r)
    (notFlag : writesFlag i → r ≠ 15) : t.reg r = s.reg r := by
  cases due : dueOf i s with
  | some c => exact reg_of_exec_of_due due ran
  | none => exact reg_of_exec_of_notDue due ran notNamed notFlag

end

/-- Settles O49: the writes of each instruction are to the registers it names, and VF under the six. -/
theorem registersChangeOnlyAsNamed : Obligations.RegistersChangeOnlyAsNamed := by
  unfold Obligations.RegistersChangeOnlyAsNamed
  intro i s t r ran changed
  by_contra other
  obtain ⟨notNamed, notFlag⟩ := not_or.1 other
  exact changed (reg_of_exec_of_not_named ran notNamed fun flag vf => notFlag ⟨vf, flag⟩)

/-! ## What no instruction reads (R17, R20, R22) -/

/-- The state with ST, UD and FAULT replaced. -/
def State.withUnread (s : State) (st : Byte) (ud : Bool) (fault : Option FaultCause) : State :=
  ((s.setSoundTimer st).setDirty ud).setLatch fault

/-- An instruction that takes `s` to `t` completes whatever ST, UD and FAULT hold, and what it leaves differs from `t` in
them alone: each is overwritten with a value that does not depend on the three, or kept. -/
def BlindTo (i : Instr) (s t : State) : Prop :=
  ∃ (st : Option Byte) (ud : Option Bool) (fault : Option (Option FaultCause)), ∀ a b c,
    exec i (s.withUnread a b c) = .next (t.withUnread (st.getD a) (ud.getD b) (fault.getD c))

section
variable {i : Instr} {s t : State}

theorem dueOf_withUnread (i : Instr) (s : State) (a : Byte) (b : Bool) (c : Option FaultCause) :
    dueOf i (s.withUnread a b c) = dueOf i s := by cases i <;> rfl

theorem skipIf_withUnread (s : State) (skip : Bool) (a : Byte) (b : Bool) (c : Option FaultCause) :
    (s.withUnread a b c).skipIf skip = (s.skipIf skip).withUnread a b c := by cases skip <;> rfl

theorem loadRegs_withUnread (rs : List Reg) (s : State) (a : Byte) (b : Bool) (c : Option FaultCause) :
    loadRegs rs (s.withUnread a b c) = (loadRegs rs s).withUnread a b c := by
  induction rs generalizing s with
  | nil => rfl
  | cons r rs ih => exact ih (s.setReg r (s.mem.read (effectiveAddr s r.val)))

theorem blindTo_of_keeps (keeps : ∀ a b c, exec i (s.withUnread a b c) = .next (t.withUnread a b c)) : BlindTo i s t :=
  ⟨none, none, none, keeps⟩

theorem blindTo_of_due {cause : FaultCause} (due : dueOf i s = some cause) (ran : exec i s = .next t) : BlindTo i s t := by
  cases (exec_of_due due).symm.trans ran
  exact ⟨none, none, some (some cause), fun a b c => exec_of_due ((dueOf_withUnread i s a b c).trans due)⟩

theorem blindTo_of_exec_of_notDue (notDue : dueOf i s = none) (ran : exec i s = .next t) : BlindTo i s t := by
  cases i with
  | ldStVx x =>
    cases ran
    exact ⟨some (s.reg x), none, none, fun a b c => rfl⟩
  | cls =>
    cases ran
    exact ⟨none, some true, none, fun a b c => rfl⟩
  | drw x y n =>
    obtain ⟨valid, rfl⟩ := exec_drw_cases notDue ran
    exact ⟨none, some true, none, fun a b c => exec_drw_of_valid (s := s.withUnread a b c) valid⟩
  | ret =>
    obtain ⟨i, depth, rfl⟩ := exec_ret_cases notDue ran
    exact blindTo_of_keeps fun a b c => exec_ret_of_depth (s := s.withUnread a b c) depth
  | call nnn =>
    obtain ⟨i, depth, rfl⟩ := exec_call_cases notDue ran
    exact blindTo_of_keeps fun a b c => exec_call_of_depth (s := s.withUnread a b c) depth
  | ldB =>
    obtain ⟨inRange, rfl⟩ := exec_ldB_cases notDue ran
    exact blindTo_of_keeps fun a b c => exec_ldB_of_valid (s := s.withUnread a b c) inRange
  | ldMemVx x =>
    obtain ⟨inRange, rfl⟩ := exec_ldMemVx_cases notDue ran
    exact blindTo_of_keeps fun a b c => exec_ldMemVx_of_valid (s := s.withUnread a b c) inRange
  | ldVxMem x =>
    obtain ⟨inRange, rfl⟩ := exec_ldVxMem_cases notDue ran
    refine blindTo_of_keeps fun a b c => ?_
    rw [← loadRegs_withUnread]
    exact exec_ldVxMem_of_valid (s := s.withUnread a b c) inRange
  | skp x =>
    obtain ⟨key, named, rfl⟩ := exec_skp_cases notDue ran
    refine blindTo_of_keeps fun a b c => ?_
    rw [← skipIf_withUnread]
    exact exec_skp_of_named (s := s.withUnread a b c) named
  | sknp x =>
    obtain ⟨key, named, rfl⟩ := exec_sknp_cases notDue ran
    refine blindTo_of_keeps fun a b c => ?_
    rw [← skipIf_withUnread]
    exact exec_sknp_of_named (s := s.withUnread a b c) named
  | ldVxK x =>
    obtain ⟨key, pressed, least, rfl⟩ | ⟨released, rfl⟩ := exec_ldVxK_cases ran
    · exact blindTo_of_keeps fun a b c => exec_ldVxK_of_leastPressed (s := s.withUnread a b c) pressed least
    · exact blindTo_of_keeps fun a b c => exec_ldVxK_of_noKeyPressed (s := s.withUnread a b c) released
  | seByte | sneByte | seReg | sneReg =>
    cases ran
    refine blindTo_of_keeps fun a b c => ?_
    rw [← skipIf_withUnread]
    rfl
  | _ =>
    cases ran
    exact blindTo_of_keeps fun a b c => rfl

theorem blindTo_of_exec (ran : exec i s = .next t) : BlindTo i s t := by
  cases due : dueOf i s with
  | some cause => exact blindTo_of_due due ran
  | none => exact blindTo_of_exec_of_notDue due ran

end

theorem changesOnly_setLatch {w : Elem → Prop} (s : State) (owned : w .latch) (c : Option FaultCause) :
    ChangesOnly w s (s.setLatch c) := by
  intro e kept
  cases e with
  | latch => exact absurd owned kept
  | _ => rfl

/-- Settles O51: in each of the three, two of the replaced elements are put back to what they hold. -/
theorem noInstructionReadsSoundTimerDirtyOrLatch : Obligations.NoInstructionReadsSoundTimerDirtyOrLatch := by
  unfold Obligations.NoInstructionReadsSoundTimerDirtyOrLatch
  intro i s t ran
  obtain ⟨st, ud, fault, blind⟩ := blindTo_of_exec ran
  have same : t = t.withUnread (st.getD s.soundTimer) (ud.getD s.dirty) (fault.getD s.latch) :=
    Host.Outcome.next.inj (ran.symm.trans (blind s.soundTimer s.dirty s.latch))
  have soundTimer : t.soundTimer = st.getD s.soundTimer := congrArg State.soundTimer same
  have dirty : t.dirty = ud.getD s.dirty := congrArg State.dirty same
  have latch : t.latch = fault.getD s.latch := congrArg State.latch same
  refine ⟨fun v => ⟨_, blind v s.dirty s.latch, ?_⟩, fun b => ⟨_, blind s.soundTimer b s.latch, ?_⟩,
    fun c => ⟨_, blind s.soundTimer s.dirty c, ?_⟩⟩
  · rw [← dirty, ← latch]
    exact changesOnly_setSoundTimer t (by rfl) _
  · rw [← soundTimer, ← latch]
    exact changesOnly_setDirty t (by rfl) _
  · rw [← soundTimer, ← dirty]
    exact changesOnly_setLatch t (by rfl) _

end Sys2Proof.Machine
end
